-- ==== Sys2Proof/Word.lean ====
section
/-! DEFINITION. The words, the numbered sets and the fixed-length tables the whole model uses (00_scope.md 3.2 to 3.5). -/

namespace Sys2Proof

/-- A lane word or a message word: 32 bits, bit 31 the most significant (R1). -/
abbrev Word := BitVec 32
/-- A byte of the boot record, a mask, a set of condition flags. -/
abbrev Byte := BitVec 8
/-- An audio sample: signed 24-bit (00_scope.md 3.4). -/
abbrev Sample := BitVec 24
/-- A stage position: unsigned 32-bit (00_scope.md 3.2). -/
abbrev Position := BitVec 32

/-- A lane index, which is a node ID (00_scope.md 3.5). -/
abbrev LaneIx := Fin 16
/-- A link bus. -/
abbrev Bus := Fin 48
/-- A channel of this engine. -/
abbrev Chan := Fin 48
/-- A local input. -/
abbrev InputIx := Fin 48
/-- A send of a channel. -/
abbrev SendIx := Fin 8
/-- A group. -/
abbrev GroupIx := Fin 32
/-- A solo scope. -/
abbrev ScopeIx := Fin 8
/-- An input port (R52). -/
abbrev PortIx := Fin 6
/-- An output slot (R131). -/
abbrev SlotIx := Fin 16
/-- An output port (R132). -/
abbrev OutPortIx := Fin 2
/-- A place of an output port (R132). -/
abbrev OutPlaceIx := Fin 8
/-- An entry of the Meter Watch Table (R171). -/
abbrev EntryIx := Fin 8
/-- A depth or a delay: 0..14 (00_scope.md 5). -/
abbrev Depth := Fin 15

/-- A fixed number of like things, as a list with its length: a register file, a history, a row. -/
structure Table (n : Nat) (α : Type) where
  cells : List α
  len : cells.length = n
  deriving DecidableEq, Repr

/-- The thing at a place of a table. -/
def Table.get {n : Nat} {α : Type} (t : Table n α) (i : Fin n) : α :=
  t.cells[i.val]'(by rw [t.len]; exact i.isLt)

/-- The table whose place i holds f i. -/
def Table.make {n : Nat} {α : Type} (f : Fin n → α) : Table n α :=
  ⟨List.ofFn f, List.length_ofFn⟩

/-- The table with one thing at every place. -/
def Table.fill {α : Type} (n : Nat) (x : α) : Table n α :=
  ⟨List.replicate n x, List.length_replicate⟩

/-- The table with one place changed. -/
def Table.put {n : Nat} {α : Type} (t : Table n α) (i : Fin n) (x : α) : Table n α :=
  ⟨t.cells.set i.val x, by rw [List.length_set, t.len]⟩

/-- A history that takes a newest entry at place 0 and drops its oldest one. -/
def Table.push {n : Nat} {α : Type} (x : α) (t : Table (n + 1) α) : Table (n + 1) α :=
  ⟨x :: t.cells.dropLast, by simp [t.len]⟩

/-- Every place of the table satisfies the test. -/
def Table.all {n : Nat} {α : Type} (t : Table n α) (p : α → Bool) : Bool :=
  t.cells.all p

/-- The eight scope bits, one mark for each scope (R7, R83). -/
abbrev ScopeBits := Table 8 Bool

end Sys2Proof
end

