-- ==== Sys2Proof/Syntax.lean ====
section
/-! DEFINITION. The commands: one constructor for each row of spec/opcode_table.json, with the operands the spec's text
gives the row (the table itself gives no fields: notes/assumptions/1.md). -/

namespace Sys2Proof

/-- What the receiver has of one lane of a frame: nobody drove it, more than one station drove it, or its 54 words (R1). -/
inductive Reception where
  | undriven
  | collided
  | words (ws : Table 54 Word)
  deriving DecidableEq, Repr

/-- The ramp a PENDING_SET_APPLICATION concerns: a channel's (R117) or an output slot's (R123). -/
inductive RampId where
  | channel (c : Chan)
  | slot (o : SlotIx)
  deriving DecidableEq, Repr

/-- The commands of the block. A `straps` operand is the level at the four node straps, which is read only where the command
enters Booting (R22). A `dest` operand is the destination field of the message's head word (R143). -/
inductive Instr where
  /-- POWER_ON (R33): power is applied. -/
  | powerOn (straps : BitVec 4)
  /-- RESET_PIN_ASSERTED (R33): the reset pin becomes asserted. -/
  | resetPinAsserted
  /-- PIN_RESET (R33): the reset pin is released after being asserted. -/
  | pinReset (straps : BitVec 4)
  /-- STATION_RESET (R150): a Station Reset message is complete. -/
  | stationReset (dest : BitVec 5) (straps : BitVec 4)
  /-- BOOT_READ_COMPLETE (R23): the 22 bytes of the boot record have been received. -/
  | bootReadComplete (record : Table 22 Byte)
  /-- BOOT_READ_NO_ANSWER (R22): the boot memory fails to acknowledge. -/
  | bootReadNoAnswer
  /-- STROBE (R28): a strobe with its position, and the sample each local input has for the frame (R52). -/
  | strobe (position : Position) (inputs : Table 48 Sample)
  /-- LOSS (R29): the strobe timer reaches four nominal frame periods. -/
  | loss
  /-- LANE_ARRIVAL (R2): the last word of one lane of the frame has been received. -/
  | laneArrival (lane : LaneIx) (rx : Reception) (straps : BitVec 4)
  /-- LOCK_GAINED (R52). -/
  | lockGained (port : PortIx)
  /-- LOCK_LOST (R52). -/
  | lockLost (port : PortIx)
  /-- STRIP_SET (R144): a Strip Set of a lane is complete. -/
  | stripSet (lane : LaneIx) (strip param : BitVec 16) (value : Word) (stamp : Option Position)
  /-- STRIP_QUERY (R146): a Strip Query of a lane is complete. -/
  | stripQuery (lane : LaneIx) (strip param : BitVec 16)
  /-- GROUP_LEVEL (R144): a Group Level of a lane is complete, with its two payload words. -/
  | groupLevel (lane : LaneIx) (groupFlags master : Word) (stamp : Option Position)
  /-- BIND (R156): a Bind of a lane is complete. -/
  | bind (lane : LaneIx) (count : Word)
  /-- WATCH (R172). -/
  | watch (strip : BitVec 16)
  /-- UNWATCH (R173). -/
  | unwatch (strip : BitVec 16)
  /-- REARM (R107). -/
  | rearm (strip : BitVec 16)
  /-- CLEAR_CONDITIONS (R148). -/
  | clearConditions (dest : BitVec 5) (mask : Byte)
  /-- ROLL_CALL (R149). -/
  | rollCall (dest : BitVec 5)
  /-- LANE_LOST (R14): a Present lane's invalid-run count reaches 16. -/
  | laneLost (lane : LaneIx)
  /-- LANE_CONFLICT (R18): the readback mismatch count reaches 4. -/
  | laneConflict
  /-- JOINING_COMPLETE (R19): the clean-run count reaches 64 in Joining. -/
  | joiningComplete
  /-- END_OF_LISTENING (R25): the own-index record is read at the 128th Listening frame. -/
  | endOfListening
  /-- WINDOW_END (R175): the window count reaches 2048. -/
  | windowEnd
  /-- PENDING_SET_APPLICATION (R117): a ramp that formed a frame at K = 0 in Out applies its pending set. -/
  | pendingSetApplication (ramp : RampId)
  /-- SET_CLOSE (R159): a lane's bound set closes. -/
  | setClose (lane : LaneIx)
  deriving DecidableEq, Repr

end Sys2Proof
end

