-- ==== Sys2Proof/Decode.lean ====
section
/-! DEFINITION. The block has no instruction words: no row of spec/opcode_table.json gives bits (98_reader.md: n_rows_with_fixed 0,
n_rows_with_fields 0). Messages reach the engine inside lanes, and Machine/Messages.lean reads them there. -/

namespace Sys2Proof

/-- The command that a word spells by the table's bits: none, for any word, because no row gives bits. -/
def decodeTableWord (_nbits _w : Nat) : Option Instr :=
  none

end Sys2Proof
end

