-- ==== Sys2Proof/Config.lean ====
section
/-! DEFINITION. The figures the chapters share (00_scope.md 5) and the gain table of R60. The spec leaves no value to an
implementation and no computed value open, so nothing here is a free value. -/

namespace Sys2Proof.Config

/-- Consecutive valid arrivals counted toward Present (R13). -/
@[simp] abbrev presentRun : Nat := 16
/-- Consecutive invalid arrivals at which a Present lane is lost (R14). -/
@[simp] abbrev lossRun : Nat := 16
/-- Consecutive readback mismatches that are a lane conflict (R18). -/
@[simp] abbrev conflictRun : Nat := 4
/-- Clean readbacks that complete Joining (R19). -/
@[simp] abbrev joiningRun : Nat := 64
/-- Frames of Listening (R25). -/
@[simp] abbrev listeningFrames : Nat := 128
/-- Frames of a gain glide (R66). -/
@[simp] abbrev glideFrames : Nat := 16
/-- The switch factor of a Steady ramp (R113). -/
@[simp] abbrev rampTop : Nat := 32
/-- Frames of a meter window (R174). -/
@[simp] abbrev windowFrames : Nat := 2048
/-- Entries of the Pending Change Queue (R163). -/
@[simp] abbrev queueCapacity : Nat := 64
/-- Members a Bind Collection holds (R158). -/
@[simp] abbrev heldCapacity : Nat := 16
/-- Messages of transmit classes 1, 2 and 3 (R152). -/
@[simp] abbrev classCapacity : Nat := 8
/-- The sync value of a Lane Mark (R3, R5). -/
@[simp] abbrev syncValue : Nat := 0x5C
/-- The format tag of a boot record (R23). -/
@[simp] abbrev formatTag : Nat := 0x4D
/-- The revision field of an Announce (R151). -/
@[simp] abbrev revision : Nat := 1
/-- The step that is named off (R54, R60). -/
@[simp] abbrev offStep : Int := -480
/-- Enough passes for any settling to end (R97): of 17 passes in a row one latches a channel or the last changes nothing, and
there are 48 channels to latch (Laws/Align.lean, settled_pass; notes/assumptions/16.md). -/
@[simp] abbrev settlingPasses : Nat := 17 * 49

/-- Base[r] of R60 for r = 0..23: round(65,536 × 2^(r/24)). -/
def gainBase : Table 24 Nat :=
  ⟨[65536, 67456, 69433, 71468, 73562, 75717, 77936, 80220,
    82570, 84990, 87480, 90043, 92682, 95398, 98193, 101070,
    104032, 107080, 110218, 113448, 116772, 120194, 123715, 127341], rfl⟩

end Sys2Proof.Config
end

