-- ==== Sys2Proof/Machine/State.lean ====
section
/-! DEFINITION. The state of the engine: one record for each block of 00_scope.md 2, the reset pin, and the queue of commands.
Every field names the rule that gives it; INVENTORY.md lists them with their reset values. -/

namespace Sys2Proof.Machine

/-! ### Station Controller (STC) -/

/-- The six station states (R21). -/
inductive StationState where
  | booting | listening | joining | contributing | silent | isolated
  deriving DecidableEq, Repr

/-- The mark of the reset cause record (R34). -/
inductive ResetCause where
  | powerOn | resetPin | stationReset
  deriving DecidableEq, Repr

/-- The stop cause of the Stop Record (R35). -/
inductive StopCause where
  | none | nodeInUse | laneConflict | referenceLoss
  deriving DecidableEq, Repr

/-- The state left of the Stop Record (R35). -/
inductive StateLeft where
  | none | listening | joining | contributing
  deriving DecidableEq, Repr

/-- The Stop Record (R35). -/
structure StopRecord where
  cause : StopCause
  position : Position
  left : StateLeft
  deriving DecidableEq, Repr

/-- The boot settings the Station Controller takes (R23): its boot record copy. -/
structure BootSettings where
  force : Bool
  forcedBase : BitVec 16
  noticeMask : Byte
  slots : Table 16 (Option Bus)
  deriving DecidableEq, Repr

/-- The eight conditions (R177). -/
inductive Condition where
  | clip | inputFault | overdepth | locate | messageFault | queueDegraded | bootFault | laneLoss
  deriving DecidableEq, Repr

/-- The Station Controller (R21 to R37, R177). `joiningComplete` is the report of R19, acted on at the next strobe (R27). -/
structure Stc where
  station : StationState
  nodeId : LaneIx
  stripBase : Nat
  boot : BootSettings
  resetCause : ResetCause
  stop : StopRecord
  conditions : Byte
  listeningCount : Nat
  joiningComplete : Bool
  deriving DecidableEq, Repr

/-! ### Link Interface (LIF) -/

/-- The presence state of a lane record (R10). -/
inductive Presence where
  | absent | joining | present
  deriving DecidableEq, Repr

/-- A need: a depth, or none (R94). -/
abbrev Need := Option Depth

/-- A lane record (R10). -/
structure LaneRecord where
  presence : Presence
  validRun : Nat
  invalidRun : Nat
  scopes : ScopeBits
  needs : Table 48 Need
  deriving DecidableEq, Repr

/-- The mode of the own-index record (R11). -/
inductive OwnMode where
  | watched | own
  deriving DecidableEq, Repr

/-- The Link Interface (R1 to R20). `receiving`: the frame in progress is one whose arrivals are taken (R2, R21).
`driven`: the lane driven in the frame in progress (R6), which the readback compares (R18). -/
structure Lif where
  lanes : Table 16 LaneRecord
  ownMode : OwnMode
  mismatch : Nat
  cleanRun : Nat
  ownFrame : Fin 8
  receiving : Bool
  driven : Option (Table 54 Word)
  deriving DecidableEq, Repr

/-! ### Reference Receiver (RFR) -/

/-- The reference state (R28). -/
inductive Reference where
  | running | lost
  deriving DecidableEq, Repr

/-- The strobe timer (R29). How long it has run is not represented: LOSS is the moment of its expiry. -/
inductive StrobeTimer where
  | stopped | running
  deriving DecidableEq, Repr

/-- The Reference Receiver (R28, R29). -/
structure Rfr where
  position : Position
  known : Bool
  reference : Reference
  timer : StrobeTimer
  deriving DecidableEq, Repr

/-! ### Message Engine (MSE) -/

/-- The discard mark of a message under way (R139). -/
inductive DiscardMark where
  | keep | discard
  deriving DecidableEq, Repr

/-- A reassembly record (R139). -/
inductive Reassembly where
  | idle
  | collecting (mark : DiscardMark) (head : Word) (remaining : Nat) (soFar : List Word)
  deriving DecidableEq, Repr

/-- A Notice as it is composed when it is queued (R151, R178). -/
structure Notice where
  condition : Condition
  position : Position
  deriving DecidableEq, Repr

/-- A Strip Answer as it is composed when the query is taken (R146, R151). -/
structure StripAnswer where
  lane : LaneIx
  strip : BitVec 16
  param : BitVec 16
  value : Word
  deriving DecidableEq, Repr

/-- A Meter Answer (R151, R175). -/
structure MeterAnswer where
  strip : BitVec 16
  steps : Int
  clip : Bool
  deriving DecidableEq, Repr

/-- The four transmit classes, lowest number first (R152). -/
inductive TxClass where
  | announce | notice | stripAnswer | meterAnswer
  deriving DecidableEq, Repr

/-- The message in progress: its class, and its words still to be driven (R152, R153). -/
structure InProgress where
  cls : TxClass
  rest : List Word
  deriving DecidableEq, Repr

/-- The Message Engine (R136 to R154). The lists hold the WAITING messages of each class; the message in progress stands
beside them and still counts against its class's capacity. Class 0 holds at most one waiting Announce (R152 rule 1), whose
content is composed when it is driven (R151), so a mark holds it. -/
structure Mse where
  reassembly : Table 16 Reassembly
  announceWaiting : Bool
  notices : List Notice
  stripAnswers : List StripAnswer
  meterAnswers : List MeterAnswer
  inProgress : Option InProgress
  deriving DecidableEq, Repr

/-! ### Change Scheduler (CHS) -/

/-- A change (10.1): a strip change, or a group change with its two payload words. -/
inductive Change where
  | strip (c : Chan) (param : BitVec 16) (value : Word)
  | group (groupFlags master : Word)
  deriving DecidableEq, Repr

/-- A change with the lane it came from. -/
structure LaneChange where
  change : Change
  lane : LaneIx
  deriving DecidableEq, Repr

/-- The set stamp of a Bind Collection (R155). -/
inductive SetStamp where
  | undetermined
  | absent
  | stamped (position : Position)
  deriving DecidableEq, Repr

/-- A Bind Collection (R155). -/
structure BindCollection where
  remaining : Nat
  held : List Change
  stamp : SetStamp
  deriving DecidableEq, Repr

/-- An entry of the Pending Change Queue (R163). -/
structure QueueEntry where
  target : Position
  change : LaneChange
  deriving DecidableEq, Repr

/-- The Change Scheduler (R155 to R170). -/
structure Chs where
  collections : Table 16 BindCollection
  queue : List QueueEntry
  due : List LaneChange
  deriving DecidableEq, Repr

/-! ### Strip Store (SST) -/

/-- A channel's source (R38). -/
inductive Source where
  | input (n : InputIx)
  | busReturn (b : Bus)
  | none
  deriving DecidableEq, Repr

/-- The four settings of a send (R38). -/
structure SendSettings where
  bus : Option Bus
  level : Int
  on : Bool
  invert : Bool
  deriving DecidableEq, Repr

/-- A channel record's settings (R38). Its read-only fields are kept by ALU and MXD. -/
structure ChannelRecord where
  source : Source
  trim : Int
  fader : Int
  mute : Bool
  solo : Bool
  soloSafe : Bool
  scope : ScopeIx
  groups : List GroupIx
  sends : Table 8 SendSettings
  deriving DecidableEq, Repr

/-- The Strip Store: the Channel Table (R38). -/
structure Sst where
  channels : Table 48 ChannelRecord
  deriving DecidableEq, Repr

/-! ### Group and Solo Unit (GSU) -/

/-- An entry of the Group Table (R75). -/
structure GroupEntry where
  master : Int
  mute : Bool
  solo : Bool
  deriving DecidableEq, Repr

/-- The Group and Solo Unit (R75 to R91): the Group Table, the own scope bits, the link scope state, the solo-gated marks. -/
structure Gsu where
  groups : Table 32 GroupEntry
  ownScopes : ScopeBits
  linkScopes : ScopeBits
  gated : Table 48 Bool
  deriving DecidableEq, Repr

/-! ### Alignment Unit (ALU) -/

/-- A channel's Return State with the depth it holds while Normal (R92). -/
inductive Align where
  | normal (depth : Depth)
  | overdepth
  deriving DecidableEq, Repr

/-- The Alignment Unit (R92 to R112). -/
structure Alu where
  channels : Table 48 Align
  ownNeeds : Table 48 Need
  aligned : Table 48 Depth
  deriving DecidableEq, Repr

/-! ### Mix Datapath (MXD) -/

/-- The glide state of a send (R66). -/
inductive Glide where
  | holding
  | gliding (start target frame : Nat)
  deriving DecidableEq, Repr

/-- The ramp state (R113). -/
inductive RampState where
  | steady | rampOut | rampIn | held
  deriving DecidableEq, Repr

/-- A switch ramp's state and factor K (R113). -/
structure Ramp where
  state : RampState
  k : Nat
  deriving DecidableEq, Repr

/-- The pending switch set of a channel (R115): each place empty or holding an item's value. -/
structure PendingSet where
  source : Option Source
  buses : Table 8 (Option (Option Bus))
  delays : Table 8 (Option Depth)
  deriving DecidableEq, Repr

/-- What MXD holds in force for a send (R114), with its coefficient and glide (R66). -/
structure SendPath where
  bus : Option Bus
  delay : Depth
  coef : Nat
  glide : Glide
  deriving DecidableEq, Repr

/-- What MXD holds for a channel (R66, R74, R113, R114). -/
structure ChannelPath where
  history : Table 15 Sample
  source : Source
  sends : Table 8 SendPath
  ramp : Ramp
  pending : PendingSet
  meterCoef : Nat
  deriving DecidableEq, Repr

/-- What MXD holds for an output slot (R123, R131). -/
structure SlotPath where
  bus : Option Bus
  delay : Depth
  ramp : Ramp
  pending : Option Depth
  deriving DecidableEq, Repr

/-- The Mix Datapath. `totals` is none while no frame total is open (R127). -/
structure Mxd where
  channels : Table 48 ChannelPath
  busHistory : Table 48 (Table 15 Sample)
  totals : Option (Table 48 Int)
  slots : Table 16 SlotPath
  outputs : Table 16 Sample
  locks : Table 6 Bool
  deriving DecidableEq, Repr

/-! ### Meter Unit (MTU) -/

/-- An Occupied entry of the Meter Watch Table (R171). -/
structure WatchEntry where
  strip : BitVec 16
  channel : Chan
  peak : Nat
  waiting : Bool
  deriving DecidableEq, Repr

/-- The Meter Unit (R171). A Free entry is none. -/
structure Mtu where
  entries : Table 8 (Option WatchEntry)
  pointer : EntryIx
  windowCount : Nat
  deriving DecidableEq, Repr

/-! ### The engine -/

/-- The state of the engine, with the queue of the commands that wait, first in first out. -/
structure State where
  stc : Stc
  lif : Lif
  rfr : Rfr
  mse : Mse
  chs : Chs
  sst : Sst
  gsu : Gsu
  alu : Alu
  mxd : Mxd
  mtu : Mtu
  resetPin : Bool
  pending : List Instr
  deriving DecidableEq, Repr

/-- The machine stops on no command: the spec reports trouble by conditions, Notices, the alert line and the stations Silent
and Isolated, so there is no fault to name. -/
inductive Fault where
  deriving DecidableEq, Repr

/-- Why a command is refused. -/
inductive Refusal where
  /-- Raised by `exec` alone, for a command that has no meaning yet; safe. No command is refused in this model. -/
  | notModelled (mnemonic : String)
  deriving DecidableEq, Repr

/-! ### Named updates, one for each block -/

def State.setStc (s : State) (x : Stc) : State := { s with stc := x }
def State.setLif (s : State) (x : Lif) : State := { s with lif := x }
def State.setRfr (s : State) (x : Rfr) : State := { s with rfr := x }
def State.setMse (s : State) (x : Mse) : State := { s with mse := x }
def State.setChs (s : State) (x : Chs) : State := { s with chs := x }
def State.setSst (s : State) (x : Sst) : State := { s with sst := x }
def State.setGsu (s : State) (x : Gsu) : State := { s with gsu := x }
def State.setAlu (s : State) (x : Alu) : State := { s with alu := x }
def State.setMxd (s : State) (x : Mxd) : State := { s with mxd := x }
def State.setMtu (s : State) (x : Mtu) : State := { s with mtu := x }
def State.setResetPin (s : State) (x : Bool) : State := { s with resetPin := x }
def State.setPending (s : State) (x : List Instr) : State := { s with pending := x }

/-! ### Values after a power-on reset -/

/-- A lane record after a reset (R10). -/
def LaneRecord.cleared : LaneRecord :=
  { presence := .absent, validRun := 0, invalidRun := 0, scopes := Table.fill 8 false, needs := Table.fill 48 none }

/-- The Link Interface after a reset (R10). -/
def Lif.cleared : Lif :=
  { lanes := Table.fill 16 LaneRecord.cleared, ownMode := .watched, mismatch := 0, cleanRun := 0, ownFrame := 0,
    receiving := false, driven := none }

/-- The Reference Receiver after a reset (R28, R29). -/
def Rfr.cleared : Rfr :=
  { position := 0, known := false, reference := .running, timer := .stopped }

/-- The Message Engine after a reset (R141, R154). -/
def Mse.cleared : Mse :=
  { reassembly := Table.fill 16 Reassembly.idle, announceWaiting := false, notices := [], stripAnswers := [],
    meterAnswers := [], inProgress := none }

/-- A Bind Collection with no set open (R155). -/
def BindCollection.cleared : BindCollection :=
  { remaining := 0, held := [], stamp := .undetermined }

/-- The Change Scheduler after a reset (R155, R162, R163). -/
def Chs.cleared : Chs :=
  { collections := Table.fill 16 BindCollection.cleared, queue := [], due := [] }

/-- The defaults of a channel record (R38). -/
def ChannelRecord.default (c : Chan) : ChannelRecord :=
  { source := .input c, trim := 0, fader := -480, mute := false, solo := false, soloSafe := false, scope := 0, groups := [],
    sends := Table.fill 8 { bus := none, level := -480, on := false, invert := false } }

/-- The Group and Solo Unit after a power-on (R75, R90). -/
def Gsu.default : Gsu :=
  { groups := Table.fill 32 { master := 0, mute := false, solo := false }, ownScopes := Table.fill 8 false,
    linkScopes := Table.fill 8 false, gated := Table.fill 48 false }

/-- The Alignment Unit after a power-on (R110). -/
def Alu.default : Alu :=
  { channels := Table.fill 48 (.normal 0), ownNeeds := Table.fill 48 none, aligned := Table.fill 48 0 }

/-- An empty pending switch set (R122). -/
def PendingSet.empty : PendingSet :=
  { source := none, buses := Table.fill 8 none, delays := Table.fill 8 none }

/-- A channel's datapath after a power-on (R69, R74, R122): the values in force are the Channel Table's defaults. -/
def ChannelPath.default (c : Chan) : ChannelPath :=
  { history := Table.fill 15 0, source := .input c,
    sends := Table.fill 8 { bus := none, delay := 0, coef := 0, glide := .holding },
    ramp := { state := .held, k := 0 }, pending := PendingSet.empty, meterCoef := 0 }

/-- The Mix Datapath after a power-on (R52, R122, R135). The slots are unassigned until the boot settings are taken
(DESIGN CHOICE, notes/assumptions/8.md). -/
def Mxd.default : Mxd :=
  { channels := Table.make ChannelPath.default, busHistory := Table.fill 48 (Table.fill 15 0), totals := none,
    slots := Table.fill 16 { bus := none, delay := 0, ramp := { state := .held, k := 0 }, pending := none },
    outputs := Table.fill 16 0, locks := Table.fill 6 false }

/-- The Meter Unit after a reset (R171). -/
def Mtu.cleared : Mtu :=
  { entries := Table.fill 8 none, pointer := 0, windowCount := 0 }

/-- The boot settings before any are taken (DESIGN CHOICE, notes/assumptions/8.md; the notice mask 0 is R33's). -/
def BootSettings.default : BootSettings :=
  { force := false, forcedBase := 0, noticeMask := 0, slots := Table.fill 16 none }

/-- The Station Controller after a power-on (R33 to R35). The node ID 0 and the strip base 0 are DESIGN CHOICEs
(notes/assumptions/4.md and 8.md). -/
def Stc.default : Stc :=
  { station := .booting, nodeId := 0, stripBase := 0, boot := BootSettings.default, resetCause := .powerOn,
    stop := { cause := .none, position := 0, left := .none }, conditions := 0, listeningCount := 0, joiningComplete := false }

/-- The engine right after a power-on reset, in Booting, with straps 0 and no command waiting. -/
def State.reset : State :=
  { stc := Stc.default, lif := Lif.cleared, rfr := Rfr.cleared, mse := Mse.cleared, chs := Chs.cleared,
    sst := { channels := Table.make ChannelRecord.default }, gsu := Gsu.default, alu := Alu.default, mxd := Mxd.default,
    mtu := Mtu.cleared, resetPin := false, pending := [] }

end Sys2Proof.Machine
end

