-- ==== Sys2Proof/Machine/Operands.lean ====
section
/-! DEFINITION. Reading and writing words: bit fields, the book's rounding and clamping (00_scope.md 3.3), and the value
conversions of Channel Strips (R41 to R47). -/

namespace Sys2Proof.Machine

/-! ### Bit fields -/

/-- The number in bits lo+len−1..lo of a word. -/
def field (w : Word) (lo len : Nat) : Nat :=
  (w.extractLsb' lo len).toNat

/-- A number placed at bit lo of a word. -/
def place (v lo : Nat) : Word :=
  BitVec.ofNat 32 v <<< lo

/-- A mark placed at bit lo of a word. -/
def placeBit (b : Bool) (lo : Nat) : Word :=
  place (if b then 1 else 0) lo

/-! ### Rounding and clamping -/

/-- Clamp to lo..hi (00_scope.md 3.3). -/
def clampInt (lo hi x : Int) : Int :=
  if x < lo then lo else if hi < x then hi else x

/-- n / d rounded to the nearest integer, ties going away from zero (00_scope.md 3.3). -/
def roundDiv (n : Int) (d : Nat) : Int :=
  if 0 ≤ n then ((2 * n.toNat + d) / (2 * d) : Nat) else -(((2 * (-n).toNat + d) / (2 * d) : Nat) : Int)

/-- Saturate to 24 bits (00_scope.md 3.3). -/
def saturate24 (x : Int) : Sample :=
  BitVec.ofInt 24 (clampInt (-8388608) 8388607 x)

/-- The number lies outside the 24-bit range. -/
def exceeds24 (x : Int) : Bool :=
  decide (x < -8388608) || decide (8388607 < x)

/-- Saturate to 32 bits (R73). -/
def saturate32 (x : Int) : Word :=
  BitVec.ofInt 32 (clampInt (-2147483648) 2147483647 x)

/-- The number lies outside the 32-bit range (R73). -/
def exceeds32 (x : Int) : Bool :=
  decide (x < -2147483648) || decide (2147483647 < x)

/-! ### Parameter ids (R41) -/

/-- What a parameter id names (R41). -/
inductive Param where
  | source | trim | fader | mute | solo | soloSafe | scope | groups
  | sendBus (k : SendIx) | sendLevel (k : SendIx) | sendSwitches (k : SendIx)
  | returnState | channelDepth | sendDelay (k : SendIx) | sendCoef (k : SendIx)
  | unassigned
  deriving DecidableEq, Repr

/-- The send that a parameter id n of a run beginning at `base` names. -/
def sendOfId (n base : Nat) : SendIx :=
  ⟨(n - base) % 8, Nat.mod_lt _ (by decide)⟩

/-- The parameter id table (R41). -/
def paramOf (id : BitVec 16) : Param :=
  let n := id.toNat
  if n = 0 then .source
  else if n = 1 then .trim
  else if n = 2 then .fader
  else if n = 3 then .mute
  else if n = 4 then .solo
  else if n = 5 then .soloSafe
  else if n = 6 then .scope
  else if n = 7 then .groups
  else if n < 16 then .sendBus (sendOfId n 8)
  else if n < 24 then .sendLevel (sendOfId n 16)
  else if n < 32 then .sendSwitches (sendOfId n 24)
  else if n = 32 then .returnState
  else if n = 33 then .channelDepth
  else if n < 42 then .sendDelay (sendOfId n 34)
  else if n < 50 then .sendCoef (sendOfId n 42)
  else .unassigned

/-! ### Values written (R42 to R46) -/

/-- A value word read as signed and clamped (R42). -/
def stepsOf (lo hi : Int) (w : Word) : Int :=
  clampInt lo hi w.toInt

/-- A Scope word clamped to 0..7 (R42). -/
def scopeOf (w : Word) : ScopeIx :=
  let n := (clampInt 0 7 w.toInt).toNat
  if h : n < 8 then ⟨n, h⟩ else 7

/-- A boolean word: any nonzero word is on (R42). -/
def switchOf (w : Word) : Bool :=
  decide (w ≠ 0)

/-- A number 0..47 names a bus, any other none (R23, R44). -/
def busOf (n : Nat) : Option Bus :=
  if h : n < 48 then some ⟨n, h⟩ else none

/-- A Source word (R43). -/
def sourceOf (w : Word) : Source :=
  let n := w.toNat
  if h : n < 48 then .input ⟨n, h⟩
  else if h : 64 ≤ n ∧ n < 112 then .busReturn ⟨n - 64, by omega⟩
  else .none

/-- A byte of a Groups word: 0..31 names a group, any other is empty (R46). -/
def groupOf (n : Nat) : Option GroupIx :=
  if h : n < 32 then some ⟨n, h⟩ else none

/-- The list with each group kept where it stands first (R46). -/
def keepFirst (gs : List GroupIx) : List GroupIx :=
  gs.foldl (fun acc g => if acc.contains g then acc else acc ++ [g]) []

/-- A Groups word: four bytes, bits 31–24 first (R46). -/
def groupsOf (w : Word) : List GroupIx :=
  keepFirst ([24, 16, 8, 0].filterMap fun lo => groupOf (field w lo 8))

/-! ### Values read (R43 to R47) -/

/-- A stored number as a signed 32-bit word (R47). -/
def stepsWord (x : Int) : Word :=
  BitVec.ofInt 32 x

/-- 1 when on, 0 when off (R47). -/
def switchWord (b : Bool) : Word :=
  if b then 1 else 0

/-- The code that would store the Source (R43). -/
def sourceWord (src : Source) : Word :=
  match src with
  | .input n => BitVec.ofNat 32 n.val
  | .busReturn b => BitVec.ofNat 32 (64 + b.val)
  | .none => 255

/-- The bus, or 255 when unassigned (R44). -/
def busWord (b : Option Bus) : Word :=
  match b with
  | some b => BitVec.ofNat 32 b.val
  | none => 255

/-- The membership list in four bytes, 255 where it does not fill them (R46). -/
def groupsWord (gs : List GroupIx) : Word :=
  let byte (i : Nat) : Nat := match gs[i]? with
    | some g => g.val
    | none => 255
  place (byte 0) 24 ||| place (byte 1) 16 ||| place (byte 2) 8 ||| place (byte 3) 0

/-- Bit 0 On, bit 1 Invert (R45). -/
def switchesWord (s : SendSettings) : Word :=
  placeBit s.on 0 ||| placeBit s.invert 1

end Sys2Proof.Machine
end

