-- ==== Sys2Proof/Machine/Ops.lean ====
section
/-! DEFINITION. The named accesses to the tables of the state, and the readings of the station every block shares. -/

namespace Sys2Proof.Machine

/-! ### Tables -/

/-- The channel record of channel c (R38). -/
def channelAt (s : State) (c : Chan) : ChannelRecord :=
  s.sst.channels.get c

/-- Stores a channel record. -/
def setChannel (s : State) (c : Chan) (r : ChannelRecord) : State :=
  s.setSst { s.sst with channels := s.sst.channels.put c r }

/-- What MXD holds for channel c. -/
def pathAt (s : State) (c : Chan) : ChannelPath :=
  s.mxd.channels.get c

/-- Stores what MXD holds for channel c. -/
def setPath (s : State) (c : Chan) (p : ChannelPath) : State :=
  s.setMxd { s.mxd with channels := s.mxd.channels.put c p }

/-- The Return State and depth of channel c (R92). -/
def alignAt (s : State) (c : Chan) : Align :=
  s.alu.channels.get c

/-- Stores the Return State and depth of channel c. -/
def setAlign (s : State) (c : Chan) (a : Align) : State :=
  s.setAlu { s.alu with channels := s.alu.channels.put c a }

/-- The lane record n (R10). -/
def laneAt (s : State) (n : LaneIx) : LaneRecord :=
  s.lif.lanes.get n

/-- Stores a lane record. -/
def setLane (s : State) (n : LaneIx) (r : LaneRecord) : State :=
  s.setLif { s.lif with lanes := s.lif.lanes.put n r }

/-- The reassembly record of lane n (R139). -/
def reassemblyAt (s : State) (n : LaneIx) : Reassembly :=
  s.mse.reassembly.get n

/-- Stores a reassembly record. -/
def setReassembly (s : State) (n : LaneIx) (r : Reassembly) : State :=
  s.setMse { s.mse with reassembly := s.mse.reassembly.put n r }

/-- The Bind Collection of lane n (R155). -/
def collectionAt (s : State) (n : LaneIx) : BindCollection :=
  s.chs.collections.get n

/-- Stores a Bind Collection. -/
def setCollection (s : State) (n : LaneIx) (b : BindCollection) : State :=
  s.setChs { s.chs with collections := s.chs.collections.put n b }

/-! ### The station -/

/-- The station states in which messages are acted on and changes applied (R21, R143, R166). -/
def takesChanges (s : State) : Bool :=
  match s.stc.station with
  | .listening | .joining | .contributing => true
  | .booting | .silent | .isolated => false

/-- The station states in which frames are received and coefficients formed (R2, R65). -/
def takesFrames (s : State) : Bool :=
  match s.stc.station with
  | .listening | .joining | .contributing | .silent => true
  | .booting | .isolated => false

/-- The station states in which the own lane is driven (R6). -/
def drivesLane (s : State) : Bool :=
  match s.stc.station with
  | .joining | .contributing => true
  | .booting | .listening | .silent | .isolated => false

/-- The station takes what comes in an arrival: it is in a state that takes arrivals (R2), and its reset pin is not
asserted (R33). -/
def hearsLanes (s : State) : Bool :=
  takesFrames s && !s.resetPin

/-- The channel that a strip names, where the strip lies in this engine's range (R24, R138). -/
def stripChannel (s : State) (strip : BitVec 16) : Option Chan :=
  if h : s.stc.stripBase ≤ strip.toNat ∧ strip.toNat < s.stc.stripBase + 48 then
    some ⟨strip.toNat - s.stc.stripBase, by omega⟩
  else none

/-- A station-addressed message concerns this station: its destination is the node ID or 31 (R143). -/
def addressed (s : State) (dest : BitVec 5) : Bool :=
  decide (dest.toNat = s.stc.nodeId.val) || decide (dest.toNat = 31)

/-- A peer lane that is Present at this engine: the own-index record takes no part (R11, R83). -/
def peerPresent (s : State) (n : LaneIx) : Bool :=
  decide (n ≠ s.stc.nodeId) && decide ((laneAt s n).presence = .present)

end Sys2Proof.Machine
end

