-- ==== Sys2Proof/Machine/Gain.lean ====
section
/-! DEFINITION. Gain Arithmetic: step totals, gates, the conversion to coefficients, targets, glides, contributions
(R57 to R74). Step totals, gates and targets are computed from the tables wherever they are read: every event that changes
a table reaches them (R62, R63), so the computed value is the standing one. -/

namespace Sys2Proof.Machine

/-! ### Step totals (R57, R58) -/

/-- The clamp of a step total (R57). -/
def clampSteps (x : Int) : Int :=
  clampInt (-480) 96 x

/-- The sum of the member groups' masters, one term per listed group (R57). -/
def masterSum (s : State) (gs : List GroupIx) : Int :=
  (gs.map fun g => (s.gsu.groups.get g).master).sum

/-- The step total q of send k of channel c (R57). -/
def stepTotal (s : State) (c : Chan) (k : SendIx) : Int :=
  let r := channelAt s c
  clampSteps (r.trim + r.fader + masterSum s r.groups + (r.sends.get k).level)

/-- The meter step total of channel c (R58). -/
def meterTotal (s : State) (c : Chan) : Int :=
  let r := channelAt s c
  clampSteps (r.trim + r.fader + masterSum s r.groups)

/-! ### Gates (R59) -/

/-- A group of the list has its mute on. -/
def groupMuted (s : State) (gs : List GroupIx) : Bool :=
  gs.any fun g => (s.gsu.groups.get g).mute

/-- The meter gate of channel c is closed (R59). -/
def meterClosed (s : State) (c : Chan) : Bool :=
  let r := channelAt s c
  r.mute || groupMuted s r.groups || s.gsu.gated.get c || decide (r.source = .none) || decide (alignAt s c = .overdepth)

/-- The gate of send k of channel c is closed (R59). -/
def sendClosed (s : State) (c : Chan) (k : SendIx) : Bool :=
  let p := (channelAt s c).sends.get k
  meterClosed s c || !p.on || decide (p.bus = none)

/-! ### From steps to coefficient (R60, R61) -/

/-- Conv(q) (R60). -/
def conv (q : Int) : Nat :=
  if q ≤ Config.offStep then 0
  else
    let o := q / 24
    let base := Config.gainBase.get ⟨(q % 24).toNat % 24, Nat.mod_lt _ (by decide)⟩
    if 0 ≤ o + 8 then base * 2 ^ (o + 8).toNat
    else
      let n := (-(o + 8)).toNat
      (base + 2 ^ (n - 1)) / 2 ^ n

/-- The target coefficient of send k of channel c (R61). -/
def sendTarget (s : State) (c : Chan) (k : SendIx) : Nat :=
  if sendClosed s c k then 0 else conv (stepTotal s c k)

/-- The target of the meter path of channel c (R61). -/
def meterTarget (s : State) (c : Chan) : Nat :=
  if meterClosed s c then 0 else conv (meterTotal s c)

/-! ### Glides (R66, R67) -/

/-- The coefficient of frame j of a glide from c0 to t (R66). -/
def glideValue (c0 t j : Nat) : Nat :=
  ((c0 : Int) + roundDiv (((t : Int) - (c0 : Int)) * (j : Int)) Config.glideFrames).toNat

/-- From the coefficient the send has: it holds where the target equals it, else a new glide begins (R66, R67). -/
def startGlide (p : SendPath) (t : Nat) : SendPath :=
  if t = p.coef then { p with glide := .holding }
  else { p with glide := .gliding p.coef t 1, coef := glideValue p.coef t 1 }

/-- The coefficient of the next frame, for the standing target t (R66, R67). A glide that has run its sixteenth frame is at
its target and counts as Holding. -/
def glideStep (p : SendPath) (t : Nat) : SendPath :=
  match p.glide with
  | .holding => startGlide p t
  | .gliding c0 t0 j =>
    if t = t0 ∧ j < Config.glideFrames then
      { p with glide := .gliding c0 t0 (j + 1), coef := glideValue c0 t0 (j + 1) }
    else startGlide p t

/-- The coefficients of a frame: every send's by its glide (R64, R66), every meter path's at its target (R74). -/
def formCoefficients (s : State) : State :=
  s.setMxd { s.mxd with
    channels := Table.make fun c =>
      let p := pathAt s c
      { p with
        sends := Table.make fun k => glideStep (p.sends.get k) (sendTarget s c k)
        meterCoef := meterTarget s c } }

/-! ### Contributions and lane words (R70 to R73) -/

/-- The contribution of a send: round(σ × x × C × K / 2^29) (R70). -/
def contribution (invert : Bool) (x : Sample) (coef k : Nat) : Int :=
  roundDiv ((if invert then -1 else 1) * x.toInt * (coef : Int) * (k : Int)) (2 ^ 29)

/-- The contribution of send k of channel c to bus b: nothing unless b is its bus in force (R71, R72). -/
def sendContribution (s : State) (b : Bus) (c : Chan) (k : SendIx) : Int :=
  let p := pathAt s c
  let d := p.sends.get k
  if d.bus = some b then
    contribution ((channelAt s c).sends.get k).invert (p.history.get d.delay) d.coef p.ramp.k
  else 0

/-- The exact sum of the contributions to bus b (R72). -/
def laneSum (s : State) (b : Bus) : Int :=
  ((List.finRange 48).map fun c => ((List.finRange 8).map fun k => sendContribution s b c k).sum).sum

/-- The lane words of the frame (R72, R73). -/
def laneWords (s : State) : Table 48 Word :=
  Table.make fun b => saturate32 (laneSum s b)

/-- Some lane word of the frame is saturated (R73). -/
def laneClips (s : State) : Bool :=
  (List.finRange 48).any fun b => exceeds32 (laneSum s b)

end Sys2Proof.Machine
end

