-- ==== Sys2Proof/Machine/Transmit.lean ====
section
/-! DEFINITION. The outgoing messages (R151), the four transmit classes (R152, R154) and the slot arbiter (R153). -/

namespace Sys2Proof.Machine

/-! ### Composing -/

/-- The number of a condition (R177). -/
def conditionNumber (c : Condition) : Nat :=
  match c with
  | .clip => 0
  | .inputFault => 1
  | .overdepth => 2
  | .locate => 3
  | .messageFault => 4
  | .queueDegraded => 5
  | .bootFault => 6
  | .laneLoss => 7

/-- The reset cause field of an Announce (9.6). -/
def resetCauseCode (c : ResetCause) : Nat :=
  match c with
  | .powerOn => 1
  | .resetPin => 2
  | .stationReset => 3

/-- The stop cause field of an Announce (9.6). -/
def stopCauseCode (c : StopCause) : Nat :=
  match c with
  | .none => 0
  | .nodeInUse => 1
  | .laneConflict => 2
  | .referenceLoss => 3

/-- The state left field of an Announce (9.6). -/
def stateLeftCode (l : StateLeft) : Nat :=
  match l with
  | .none => 0
  | .listening => 1
  | .joining => 2
  | .contributing => 3

/-- An outgoing head word: stamp flag clear, bits 17–0 at 0 (9.6). -/
def headWord (kind len dest : Nat) : Word :=
  place kind 27 ||| place len 24 ||| place dest 19

/-- An Announce, from the Station Controller's records as they stand (R151). -/
def announceWords (s : State) : List Word :=
  [headWord 16 3 31,
   place s.stc.stripBase 16 ||| place s.stc.nodeId.val 12 ||| place (resetCauseCode s.stc.resetCause) 8 |||
     place Config.revision 0,
   place (stopCauseCode s.stc.stop.cause) 24 ||| place (stateLeftCode s.stc.stop.left) 16,
   s.stc.stop.position]

/-- A Notice (R151, R178). -/
def noticeWords (n : Notice) : List Word :=
  [headWord 19 2 31, place (conditionNumber n.condition) 0, n.position]

/-- A Strip Answer (R146, R151). -/
def stripAnswerWords (a : StripAnswer) : List Word :=
  [headWord 17 2 a.lane.val, place a.strip.toNat 16 ||| place a.param.toNat 0, a.value]

/-- A Meter Answer: the steps as a signed 16-bit number, the clip flag in bit 16 (9.6). -/
def meterAnswerWords (a : MeterAnswer) : List Word :=
  [headWord 18 2 31, place a.strip.toNat 16, place (BitVec.ofInt 16 a.steps).toNat 0 ||| placeBit a.clip 16]

/-! ### Queuing (R152) -/

/-- The message in progress counts against the capacity of its own class (R152). -/
def inProgressCount (m : Mse) (c : TxClass) : Nat :=
  match m.inProgress with
  | some p => if p.cls = c then 1 else 0
  | none => 0

/-- Queues an Announce in class 0; one that waits already answers it (R152 rule 1). Class 0 then holds at most the one in
progress and the one waiting, its capacity of 2. -/
def queueAnnounce (s : State) : State :=
  s.setMse { s.mse with announceWaiting := true }

/-- Queues a Notice in class 1 unless the class is full (R152 rule 3). -/
def queueNotice (n : Notice) (s : State) : State :=
  if s.mse.notices.length + inProgressCount s.mse .notice < Config.classCapacity then
    s.setMse { s.mse with notices := s.mse.notices ++ [n] }
  else s

/-- Queues a Strip Answer in class 2 unless the class is full (R146, R152 rule 3). -/
def queueStripAnswer (a : StripAnswer) (s : State) : State :=
  if s.mse.stripAnswers.length + inProgressCount s.mse .stripAnswer < Config.classCapacity then
    s.setMse { s.mse with stripAnswers := s.mse.stripAnswers ++ [a] }
  else s

/-- A Meter Answer for the strip waits in class 3. -/
def meterWaits (m : Mse) (strip : BitVec 16) : Bool :=
  m.meterAnswers.any fun a => decide (a.strip = strip)

/-- Class 3 takes a Meter Answer for the strip: one waits whose content it replaces, or there is room (R152 rules 2, 3). -/
def meterFits (m : Mse) (strip : BitVec 16) : Bool :=
  meterWaits m strip || decide (m.meterAnswers.length + inProgressCount m .meterAnswer < Config.classCapacity)

/-- Queues a Meter Answer in class 3: it replaces the content of one that waits for its strip, else it is appended unless the
class is full (R152 rules 2 and 3). -/
def queueMeterAnswer (a : MeterAnswer) (s : State) : State :=
  if meterWaits s.mse a.strip then
    s.setMse { s.mse with meterAnswers := s.mse.meterAnswers.map fun b => if b.strip = a.strip then a else b }
  else if meterFits s.mse a.strip then
    s.setMse { s.mse with meterAnswers := s.mse.meterAnswers ++ [a] }
  else s

/-- Removes the Meter Answer that waits for a strip; those behind it move up (R172). -/
def dropMeterAnswer (strip : BitVec 16) (s : State) : State :=
  s.setMse { s.mse with meterAnswers := s.mse.meterAnswers.filter fun a => decide (a.strip ≠ strip) }

/-- Every class emptied, the message in progress among them (R154). -/
def emptyClasses (s : State) : State :=
  s.setMse { s.mse with announceWaiting := false, notices := [], stripAnswers := [], meterAnswers := [], inProgress := none }

/-- The message in progress is discarded from its class; the waiting ones are kept (R30, R154). -/
def discardInProgress (s : State) : State :=
  s.setMse { s.mse with inProgress := none }

/-! ### The slot arbiter (R153) -/

/-- The waiting-answer mark of the entry that holds a strip becomes clear: the head of its answer is driven (R175). -/
def clearWaitingMark (strip : BitVec 16) (s : State) : State :=
  s.setMtu { s.mtu with
    entries := Table.make fun e =>
      (s.mtu.entries.get e).map fun w => if w.strip = strip then { w with waiting := false } else w }

/-- A composed message begins in a slot: the slot carries its head, and the rest is in progress. -/
def beginMessage (cls : TxClass) (ws : List Word) (s : State) : Word × State :=
  (ws.headD 0, s.setMse { s.mse with inProgress := if ws.tail.isEmpty then none else some { cls := cls, rest := ws.tail } })

/-- The waiting message queued first in the lowest non-empty class begins; with none waiting the slot is idle (R153). -/
def beginNext (s : State) : Word × State :=
  if s.mse.announceWaiting then
    beginMessage .announce (announceWords s) (s.setMse { s.mse with announceWaiting := false })
  else match s.mse.notices with
    | n :: ns => beginMessage .notice (noticeWords n) (s.setMse { s.mse with notices := ns })
    | [] => match s.mse.stripAnswers with
      | a :: as => beginMessage .stripAnswer (stripAnswerWords a) (s.setMse { s.mse with stripAnswers := as })
      | [] => match s.mse.meterAnswers with
        | a :: as =>
          beginMessage .meterAnswer (meterAnswerWords a)
            (clearWaitingMark a.strip (s.setMse { s.mse with meterAnswers := as }))
        | [] => (0, s)

/-- One slot of a Contributing frame (R153). -/
def fillSlot (s : State) : Word × State :=
  match s.mse.inProgress with
  | some { cls, rest := w :: ws } =>
    (w, s.setMse { s.mse with inProgress := if ws.isEmpty then none else some { cls := cls, rest := ws } })
  | some { cls := _, rest := [] } => beginNext s
  | none => beginNext s

end Sys2Proof.Machine
end

