-- ==== Sys2Proof/Machine/Meter.lean ====
section
/-! DEFINITION. The Meter Unit: the Meter Watch Table, samples, windows and the conversion of peaks (R171 to R176). -/

namespace Sys2Proof.Machine

/-! ### The Meter Watch Table (R171 to R173) -/

/-- The entry holds the strip. -/
def holdsStrip (strip : BitVec 16) (e : Option WatchEntry) : Bool :=
  match e with
  | some w => decide (w.strip = strip)
  | none => false

/-- The Occupied entry that holds a strip (R172). -/
def entryOf (m : Mtu) (strip : BitVec 16) : Option EntryIx :=
  (List.finRange 8).find? fun e => holdsStrip strip (m.entries.get e)

/-- The pointer moved to the next entry, modulo 8 (R172). -/
def nextEntry (p : EntryIx) : EntryIx :=
  ⟨(p.val + 1) % 8, Nat.mod_lt _ (by decide)⟩

/-- The Meter Answer that waits for an entry about to be replaced is removed from class 3 (R172). -/
def dropAnswerOf (e : Option WatchEntry) (s : State) : State :=
  match e with
  | some w => if w.waiting then dropMeterAnswer w.strip s else s
  | none => s

/-- A Watch is taken for a strip of this engine and its channel (R172). -/
def watchStrip (strip : BitVec 16) (c : Chan) (s : State) : State :=
  match entryOf s.mtu strip with
  | some e =>
    if s.mtu.pointer = e then s.setMtu { s.mtu with pointer := nextEntry e } else s
  | none =>
    let p := s.mtu.pointer
    let t := dropAnswerOf (s.mtu.entries.get p) s
    t.setMtu { t.mtu with
      entries := t.mtu.entries.put p (some { strip := strip, channel := c, peak := 0, waiting := false })
      pointer := nextEntry p }

/-- An Unwatch is taken: the entry that holds the strip becomes Free (R173). -/
def unwatchStrip (strip : BitVec 16) (s : State) : State :=
  match entryOf s.mtu strip with
  | some e => s.setMtu { s.mtu with entries := s.mtu.entries.put e none }
  | none => s

/-- Every waiting-answer mark cleared (R171). -/
def clearWaitingMarks (s : State) : State :=
  s.setMtu { s.mtu with
    entries := Table.make fun e => (s.mtu.entries.get e).map fun w => { w with waiting := false } }

/-! ### Converting a peak (R176) -/

/-- The largest r with Base[r] ≤ m (R176). -/
def baseIndex (m : Nat) : Nat :=
  (List.finRange 24).foldl (fun acc r => if Config.gainBase.get r ≤ m then r.val else acc) 0

/-- The steps of a window peak (R176). -/
def peakSteps (p : Nat) : Int :=
  if p = 0 then -480
  else
    let e := Nat.log2 p
    24 * ((e : Int) - 23) + (baseIndex (p * 2 ^ 16 / 2 ^ e) : Int)

/-- The clip flag of a window peak (R176). -/
def peakClips (p : Nat) : Bool :=
  decide (8388607 < p)

/-! ### Samples and windows (R174, R175) -/

/-- The magnitude of the meter sample round(x × C / 2^24) (R174). -/
def meterMagnitude (x : Sample) (coef : Nat) : Nat :=
  (roundDiv (x.toInt * (coef : Int)) (2 ^ 24)).natAbs

/-- An Occupied entry takes the frame's meter sample of its channel (R174). -/
def sampleEntry (s : State) (w : WatchEntry) : WatchEntry :=
  let p := pathAt s w.channel
  let m := meterMagnitude (p.history.get 0) p.meterCoef
  if w.peak < m then { w with peak := m } else w

/-- An Occupied entry's Meter Answer for the window (R175, R176). -/
def meterAnswerOf (w : WatchEntry) : MeterAnswer :=
  { strip := w.strip, steps := peakSteps w.peak, clip := peakClips w.peak }

/-- One entry at a window end: its Meter Answer is queued, its mark set where class 3 takes it, its peak set to 0 (R175). -/
def windowEntry (s : State) (e : EntryIx) : State :=
  match s.mtu.entries.get e with
  | none => s
  | some w =>
    let t := queueMeterAnswer (meterAnswerOf w) s
    t.setMtu { t.mtu with
      entries := t.mtu.entries.put e (some { w with peak := 0, waiting := w.waiting || meterFits s.mse w.strip }) }

/-- A window end (R174, R175): the Occupied entries in entry order, and the window count back to 0. -/
def endWindow (s : State) : State :=
  let t := (List.finRange 8).foldl windowEntry s
  t.setMtu { t.mtu with windowCount := 0 }

/-- The window count and the peaks set to 0 at the entry to Contributing (R174). -/
def startMetering (s : State) : State :=
  s.setMtu { s.mtu with
    windowCount := 0
    entries := Table.make fun e => (s.mtu.entries.get e).map fun w => { w with peak := 0 } }

/-- The meter work of a Contributing frame: the samples, the count, and the window end at 2048 (R174). -/
def meterFrame (s : State) : State :=
  let t := s.setMtu { s.mtu with
    windowCount := s.mtu.windowCount + 1
    entries := Table.make fun e => (s.mtu.entries.get e).map (sampleEntry s) }
  if t.mtu.windowCount = Config.windowFrames then endWindow t else t

end Sys2Proof.Machine
end

