-- ==== Sys2Proof/Machine/Flags.lean ====
section
/-! DEFINITION. The condition flags, their Notices and the alert line (R36, R177 to R179). -/

namespace Sys2Proof.Machine

/-- Bit n of a set of condition bits, for the condition numbered n (R177). -/
def conditionBit (bits : Byte) (c : Condition) : Bool :=
  bits.getLsbD (conditionNumber c)

/-- A set of condition bits with the condition's bit set. -/
def withCondition (bits : Byte) (c : Condition) : Byte :=
  bits ||| (1#8 <<< conditionNumber c)

/-- An occurrence of a condition is taken (R177): its flag is set, and a Notice with the current position is queued where the
flag was clear and the notice mask does not suppress it (R178). -/
def raise (c : Condition) (s : State) : State :=
  let t := s.setStc { s.stc with conditions := withCondition s.stc.conditions c }
  if !conditionBit s.stc.conditions c && !conditionBit s.stc.boot.noticeMask c then
    queueNotice { condition := c, position := s.rfr.position } t
  else t

/-- One or more occurrences are taken where the report is made: after the first, a further one finds the flag set and changes
nothing (R177). -/
def raiseIf (occurred : Bool) (c : Condition) (s : State) : State :=
  if occurred then raise c s else s

/-- A MessageFault occurrence is reported in Listening, Joining and Contributing, not in Silent (R142). -/
def messageFault (s : State) : State :=
  raiseIf (takesChanges s) .messageFault s

/-- The flags whose bits are set in the mask are cleared (R148). -/
def clearFlags (mask : Byte) (s : State) : State :=
  s.setStc { s.stc with conditions := s.stc.conditions &&& ~~~mask }

/-- The alert line (R36): asserted while the station is Silent or Isolated and while the BootFault flag is set; deasserted
while the reset pin is asserted (R33). -/
def alertLine (s : State) : Bool :=
  !s.resetPin &&
    (decide (s.stc.station = .silent) || decide (s.stc.station = .isolated) || conditionBit s.stc.conditions .bootFault)

end Sys2Proof.Machine
end

