-- ==== Sys2Proof/Machine/Mix.lean ====
section
/-! DEFINITION. Bus totals, bus sample histories, channel histories, local outputs, input ports (R52, R53, R125 to R135). -/

namespace Sys2Proof.Machine

/-! ### Frame totals and their close (R125 to R132) -/

/-- The totals of a frame begin with the words given (R125). -/
def openTotals (words : Bus → Int) (s : State) : State :=
  s.setMxd { s.mxd with totals := some (Table.make words) }

/-- A lane's bus words are added into the frame's totals, exactly (R125). -/
def addBusWords (words : Bus → Int) (s : State) : State :=
  match s.mxd.totals with
  | none => s
  | some t => s.setMxd { s.mxd with totals := some (Table.make fun b => t.get b + words b) }

/-- The open totals are discarded (R127). -/
def discardTotals (s : State) : State :=
  s.setMxd { s.mxd with totals := none }

/-- The output sample of a slot: round(y × K / 32), or 0 for an unassigned one (R131). -/
def slotOutput (hist : Table 48 (Table 15 Sample)) (p : SlotPath) : Sample :=
  match p.bus with
  | none => 0
  | some b => BitVec.ofInt 24 (roundDiv (((hist.get b).get p.delay).toInt * (p.ramp.k : Int)) Config.rampTop)

/-- The bus sample histories after the totals are entered (R127, R129). -/
def closedHistory (s : State) (t : Table 48 Int) : Table 48 (Table 15 Sample) :=
  Table.make fun b => Table.push (saturate24 (t.get b)) (s.mxd.busHistory.get b)

/-- The frame totals are closed, where there are any (R127): bus samples, histories, output samples, Clip occurrences. -/
def closeFrame (s : State) : State :=
  match s.mxd.totals with
  | none => s
  | some t =>
    let hist := closedHistory s t
    raiseIf (t.cells.any exceeds24) .clip
      (s.setMxd { s.mxd with
        totals := none
        busHistory := hist
        outputs := Table.make fun o => slotOutput hist (s.mxd.slots.get o) })

/-- Every output slot gives 0 (R133). -/
def silenceOutputs (s : State) : State :=
  s.setMxd { s.mxd with outputs := Table.fill 16 0 }

/-- The output port of a slot (R132). -/
def outPortOf (o : SlotIx) : OutPortIx :=
  ⟨o.val / 8, by omega⟩

/-- The place of a slot in its output port (R132). -/
def outPlaceOf (o : SlotIx) : OutPlaceIx :=
  ⟨o.val - 8 * (o.val / 8), by omega⟩

/-- The slot that a place of an output port carries (R132). -/
def slotOnPort (port : OutPortIx) (place : OutPlaceIx) : SlotIx :=
  ⟨8 * port.val + place.val, by omega⟩

/-- The sample an output port delivers in one of its places (R132 to R134): the last one formed for the slot it carries. -/
def portSample (s : State) (port : OutPortIx) (place : OutPlaceIx) : Sample :=
  s.mxd.outputs.get (slotOnPort port place)

/-! ### Channel histories (R52, R53, R130) -/

/-- The port of a local input (R52). -/
def portOf (n : InputIx) : PortIx :=
  ⟨n.val / 8, by omega⟩

/-- The sample a source gives for the frame (R53). -/
def sourceSample (s : State) (inputs : Table 48 Sample) (src : Source) : Sample :=
  match src with
  | .input n => if s.mxd.locks.get (portOf n) then inputs.get n else 0
  | .busReturn b => (s.mxd.busHistory.get b).get 0
  | .none => 0

/-- Every channel history takes the frame's sample of the source in force (R53, R130). -/
def enterSamples (inputs : Table 48 Sample) (s : State) : State :=
  s.setMxd { s.mxd with
    channels := Table.make fun c =>
      let p := pathAt s c
      { p with history := Table.push (sourceSample s inputs p.source) p.history } }

/-! ### Input ports (R52) -/

/-- A port's lock state is set (R52). -/
def setLock (port : PortIx) (locked : Bool) (s : State) : State :=
  s.setMxd { s.mxd with locks := s.mxd.locks.put port locked }

end Sys2Proof.Machine
end

