-- ==== Sys2Proof/Machine/Ramp.lean ====
section
/-! DEFINITION. Switch ramps: posting items, stepping, applying the pending set, the join fade-in (R113 to R124). -/

namespace Sys2Proof.Machine

/-! ### Posting items (R115, R119) -/

/-- The ramp state after an item is posted (R119): Steady and In turn Out, Out and Held stay. -/
def turnRamp (r : Ramp) : Ramp :=
  match r.state with
  | .steady => { r with state := .rampOut }
  | .rampOut => r
  | .rampIn => { r with state := .rampOut }
  | .held => r

/-- A Source item is posted to a channel's ramp (R50, R115). -/
def postSource (src : Source) (p : ChannelPath) : ChannelPath :=
  { p with pending := { p.pending with source := some src }, ramp := turnRamp p.ramp }

/-- A Send k Bus item is posted (R50, R115). -/
def postBus (k : SendIx) (b : Option Bus) (p : ChannelPath) : ChannelPath :=
  { p with pending := { p.pending with buses := p.pending.buses.put k (some b) }, ramp := turnRamp p.ramp }

/-- A Send k Delay item is posted (R102, R115). -/
def postDelay (k : SendIx) (d : Depth) (p : ChannelPath) : ChannelPath :=
  { p with pending := { p.pending with delays := p.pending.delays.put k (some d) }, ramp := turnRamp p.ramp }

/-- An output delay item is posted to a slot's ramp (R103, R123). -/
def postSlotDelay (d : Depth) (p : SlotPath) : SlotPath :=
  { p with pending := some d, ramp := turnRamp p.ramp }

/-- The delay send k would have once the pending set were applied (R102). -/
def effectiveDelay (p : ChannelPath) (k : SendIx) : Depth :=
  (p.pending.delays.get k).getD (p.sends.get k).delay

/-- The delay a slot would have once its pending item were applied (R103). -/
def effectiveSlotDelay (p : SlotPath) : Depth :=
  p.pending.getD p.delay

/-! ### Applying the pending set (R117, R118, R121) -/

/-- Each item replaces the value in force of its place, a changed source clears the history, and the set is emptied
(R117, R118). -/
def applyPending (p : ChannelPath) : ChannelPath :=
  let src := p.pending.source.getD p.source
  { p with
    source := src
    history := if src = p.source then p.history else Table.fill 15 0
    sends := Table.make fun k =>
      let d := p.sends.get k
      { d with bus := (p.pending.buses.get k).getD d.bus, delay := effectiveDelay p k }
    pending := PendingSet.empty }

/-- A slot's pending delay comes into force (R123). -/
def applySlotPending (p : SlotPath) : SlotPath :=
  { p with delay := effectiveSlotDelay p, pending := none }

/-- The first frame of an In ramp (R117). -/
def rampEntersIn : Ramp :=
  { state := .rampIn, k := 1 }

/-- A ramp held at K = 0 (R122). -/
def rampHeld : Ramp :=
  { state := .held, k := 0 }

/-- The application is due at the next step: the ramp formed a frame with K = 0 in Out (R117). -/
def applicationDue (r : Ramp) : Bool :=
  decide (r.state = .rampOut) && decide (r.k = 0)

/-- The step of a ramp's state and K where no application is due (R116). -/
def stepK (r : Ramp) : Ramp :=
  match r.state with
  | .steady => { r with k := Config.rampTop }
  | .rampOut => { r with k := r.k - 1 }
  | .rampIn => if r.k < Config.rampTop then { r with k := r.k + 1 } else { state := .steady, k := Config.rampTop }
  | .held => { r with k := 0 }

/-- One step of a channel's ramp (R116, R117). -/
def stepPath (p : ChannelPath) : ChannelPath :=
  if applicationDue p.ramp then { applyPending p with ramp := rampEntersIn }
  else { p with ramp := stepK p.ramp }

/-- One step of a slot's ramp (R116, R123). -/
def stepSlot (p : SlotPath) : SlotPath :=
  if applicationDue p.ramp then { applySlotPending p with ramp := rampEntersIn }
  else { p with ramp := stepK p.ramp }

/-- The join fade-in of a channel: its set is applied, its history cleared whatever the set held, its ramp In at K = 1
(R121). -/
def joinPath (p : ChannelPath) : ChannelPath :=
  { applyPending p with history := Table.fill 15 0, ramp := rampEntersIn }

/-- The join fade-in of a slot (R124). -/
def joinSlot (p : SlotPath) : SlotPath :=
  { applySlotPending p with ramp := rampEntersIn }

/-! ### All ramps -/

/-- Every channel's and every slot's path is passed through a change of its own. -/
def mapPaths (f : ChannelPath → ChannelPath) (g : SlotPath → SlotPath) (s : State) : State :=
  s.setMxd { s.mxd with
    channels := Table.make fun c => f (s.mxd.channels.get c)
    slots := Table.make fun o => g (s.mxd.slots.get o) }

/-- Every ramp takes its step (R116, R123). -/
def stepRamps (s : State) : State :=
  mapPaths stepPath stepSlot s

/-- Every ramp takes the join fade-in (R121, R124). -/
def joinFadeIn (s : State) : State :=
  mapPaths joinPath joinSlot s

/-- Every ramp is Held at K = 0, its set kept (R32, R122, R124). -/
def holdRamps (s : State) : State :=
  mapPaths (fun p => { p with ramp := rampHeld }) (fun p => { p with ramp := rampHeld }) s

end Sys2Proof.Machine
end

