-- ==== Sys2Proof/Machine/Align.lean ====
section
/-! DEFINITION. Depth Alignment: channel depths, own needs, aligned depths, settlings, delay targets (R92 to R112). -/

namespace Sys2Proof.Machine

/-! ### One pass of a settling (R97) -/

/-- A channel evaluated for its source with the aligned depths given: Normal at depth 0 or D_s + 1, or Overdepth where
D_s + 1 exceeds 14 (R51, R92). -/
def evaluate (src : Source) (aligned : Table 48 Depth) : Align :=
  match src with
  | .busReturn b =>
    if h : (aligned.get b).val + 1 < 15 then .normal ⟨(aligned.get b).val + 1, h⟩ else .overdepth
  | .input _ => .normal 0
  | .none => .normal 0

/-- Step 1 of a pass: the depth or the latch of each Normal channel; an Overdepth channel stays (R97, R106). -/
def passAlign (s : State) (a : Alu) : Table 48 Align :=
  Table.make fun c =>
    match a.channels.get c with
    | .overdepth => .overdepth
    | .normal _ => evaluate (channelAt s c).source a.aligned

/-- The larger of two needs; none takes no part (R95). -/
def maxNeed (x y : Need) : Need :=
  match x, y with
  | none, y => y
  | some d, none => some d
  | some d, some e => if d < e then some e else some d

/-- A channel has a send whose Bus, as the Channel Table holds it, is b (R93). -/
def sendsTo (r : ChannelRecord) (b : Bus) : Bool :=
  r.sends.cells.any fun d => decide (d.bus = some b)

/-- The depth channel c asks of bus b: its own where it is Normal and sends to b, else none (R93). -/
def needOfChannel (s : State) (align : Table 48 Align) (b : Bus) (c : Chan) : Need :=
  match align.get c with
  | .normal d => if sendsTo (channelAt s c) b then some d else none
  | .overdepth => none

/-- Step 2 of a pass: the own need for bus b (R93). -/
def ownNeedOf (s : State) (align : Table 48 Align) (b : Bus) : Need :=
  (List.finRange 48).foldl (fun acc c => maxNeed acc (needOfChannel s align b c)) none

/-- The largest need for bus b in the rows of the Present lanes (R95). -/
def peerNeedOf (s : State) (b : Bus) : Need :=
  (List.finRange 16).foldl (fun acc n => maxNeed acc (if peerPresent s n then (laneAt s n).needs.get b else none)) none

/-- Step 3 of a pass: the aligned depth of bus b, 0 where no station needs it (R95). -/
def alignedOf (s : State) (own : Need) (b : Bus) : Depth :=
  (maxNeed own (peerNeedOf s b)).getD 0

/-- One pass of a settling, from the state the previous one left (R97). -/
def settlingPass (s : State) (a : Alu) : Alu :=
  let align := passAlign s a
  let own := Table.make fun b => ownNeedOf s align b
  { channels := align, ownNeeds := own, aligned := Table.make fun b => alignedOf s (own.get b) b }

/-- Some channel latched: it is in Overdepth after and was not before (R105). -/
def latchedBetween (before after : Alu) : Bool :=
  (List.finRange 48).any fun c =>
    decide (after.channels.get c = .overdepth) && decide (before.channels.get c ≠ .overdepth)

/-- Passes until one changes nothing, with a mark whether any of them latched a channel (R97, R98). -/
def settleLoop (s : State) (fuel : Nat) (a : Alu) (latched : Bool) : Alu × Bool :=
  match fuel with
  | 0 => (a, latched)
  | n + 1 =>
    let a' := settlingPass s a
    if a' = a then (a, latched) else settleLoop s n a' (latched || latchedBetween a a')

/-- The outcome of a settling from the state given (R97). -/
def settled (s : State) : Alu × Bool :=
  settleLoop s Config.settlingPasses s.alu false

/-! ### Delay targets (R101 to R103) -/

/-- D − d for a send; it lies in 0..14 because D is at least d (R95, R101). -/
def depthDiff (x y : Depth) : Depth :=
  ⟨x.val - y.val, Nat.lt_of_le_of_lt (Nat.sub_le _ _) x.isLt⟩

/-- The delay target of send k of channel c (R101). While the channel is in Overdepth an assigned send's target is the delay
it would have once its pending set were applied: nothing posts a delay item for it meanwhile, so that delay stands as it
stood at the latch (DEDUCED, notes/assumptions/15.md). -/
def delayTarget (s : State) (c : Chan) (k : SendIx) : Depth :=
  match ((channelAt s c).sends.get k).bus with
  | none => 0
  | some b =>
    match alignAt s c with
    | .normal d => depthDiff (s.alu.aligned.get b) d
    | .overdepth => effectiveDelay (pathAt s c) k

/-- The output delay target of a slot that carries bus b: 14 − D_b (R103). -/
def slotTarget (s : State) (b : Bus) : Depth :=
  depthDiff 14 (s.alu.aligned.get b)

/-- Channel c's path with a delay item for each send whose target differs from its effective delay (R102). -/
def postChannelDelays (s : State) (c : Chan) : ChannelPath :=
  (List.finRange 8).foldl
    (fun p k => if delayTarget s c k = effectiveDelay (pathAt s c) k then p else postDelay k (delayTarget s c k) p)
    (pathAt s c)

/-- A slot's path with an output delay item where its target differs from its effective delay (R103). -/
def postSlot (s : State) (p : SlotPath) : SlotPath :=
  match p.bus with
  | none => p
  | some b => if slotTarget s b = effectiveSlotDelay p then p else postSlotDelay (slotTarget s b) p

/-- The delay items and output delay items of the end of a settling (R98, R102, R103). -/
def postDelays (s : State) : State :=
  s.setMxd { s.mxd with
    channels := Table.make fun c => postChannelDelays s c
    slots := Table.make fun o => postSlot s (s.mxd.slots.get o) }

/-- A settling as part of an event (R96 to R98): the passes, the delay items, the Overdepth occurrences. -/
def settle (s : State) : State :=
  raiseIf (settled s).2 .overdepth (postDelays (s.setAlu (settled s).1))

/-! ### Events of the Alignment Unit -/

/-- Channel c is evaluated for the source it holds, the latch cleared first (R51, R107). -/
def evaluateChannel (c : Chan) (s : State) : State :=
  setAlign s c (evaluate (channelAt s c).source s.alu.aligned)

/-- A Rearm is taken for channel c (R107). -/
def rearmChannel (c : Chan) (s : State) : State :=
  match alignAt s c with
  | .normal _ => settle s
  | .overdepth =>
    let t := evaluateChannel c s
    settle (raiseIf (decide (alignAt t c = .overdepth)) .overdepth t)

end Sys2Proof.Machine
end

