-- ==== Sys2Proof/Machine/Solo.lean ====
section
/-! DEFINITION. The Group and Solo Unit: soloed channels, own scope bits, link scope state, solo gating, Group Level changes
(R75 to R91). -/

namespace Sys2Proof.Machine

/-- A channel is soloed: its Solo is on, or a group of its list has Solo on (R80). -/
def soloed (s : State) (c : Chan) : Bool :=
  let r := channelAt s c
  r.solo || r.groups.any fun g => (s.gsu.groups.get g).solo

/-- The own scope bits the tables give (R81). -/
def ownScopesOf (s : State) : ScopeBits :=
  Table.make fun sc => (List.finRange 48).any fun c => decide ((channelAt s c).scope = sc) && soloed s c

/-- The link scope state: the own scope bits and the scope bytes of the Present peer lanes (R83). -/
def linkScopesOf (s : State) : ScopeBits :=
  Table.make fun sc =>
    s.gsu.ownScopes.get sc || (List.finRange 16).any fun n => peerPresent s n && (laneAt s n).scopes.get sc

/-- A channel is solo-gated (R86). -/
def soloGated (s : State) (c : Chan) : Bool :=
  let r := channelAt s c
  s.gsu.linkScopes.get r.scope && !soloed s c && !r.soloSafe

/-- The own scope bits are evaluated (R81). -/
def evalOwnScopes (s : State) : State :=
  s.setGsu { s.gsu with ownScopes := ownScopesOf s }

/-- The solo gating of every channel is evaluated (R86). -/
def evalGating (s : State) : State :=
  s.setGsu { s.gsu with gated := Table.make (soloGated s) }

/-- The link scope state is evaluated, and the gating with it (R84, R86). -/
def evalLinkScopes (s : State) : State :=
  evalGating (s.setGsu { s.gsu with linkScopes := linkScopesOf s })

/-- The own scope bits, then the link scope state, then the gating (R77, R81). -/
def evalSolo (s : State) : State :=
  evalLinkScopes (evalOwnScopes s)

/-- A Group Level change is applied (R76, R77): the named entry's three values, then the solo state. A group of 32 or more
names no entry and hands nothing on. -/
def applyGroupLevel (groupFlags master : Word) (s : State) : State :=
  match groupOf (field groupFlags 16 16) with
  | none => s
  | some g =>
    evalSolo (s.setGsu { s.gsu with
      groups := s.gsu.groups.put g
        { master := stepsOf (-480) 48 master, mute := groupFlags.getLsbD 0, solo := groupFlags.getLsbD 1 } })

end Sys2Proof.Machine
end

