-- ==== Sys2Proof/Machine/Strip.lean ====
section
/-! DEFINITION. The Strip Store: a write of one parameter with what it hands on (R40 to R51), and the answer of a read (R47).
Targets are computed where they are read (Gain.lean), so a gain setting hands nothing further on here. -/

namespace Sys2Proof.Machine

/-! ### Writes -/

/-- A write applied to Source (R50, R51): the source is stored, the latch cleared and the channel evaluated, the Source item
posted, and a settling taken. -/
def writeSource (c : Chan) (w : Word) (s : State) : State :=
  let src := sourceOf w
  let stored := setChannel s c { channelAt s c with source := src }
  let evaluated := evaluateChannel c stored
  let posted := setPath evaluated c (postSource src (pathAt evaluated c))
  settle (raiseIf (decide (alignAt posted c = .overdepth)) .overdepth posted)

/-- A write applied to Trim (R42). -/
def writeTrim (c : Chan) (w : Word) (s : State) : State :=
  setChannel s c { channelAt s c with trim := stepsOf (-96) 96 w }

/-- A write applied to Fader (R42). -/
def writeFader (c : Chan) (w : Word) (s : State) : State :=
  setChannel s c { channelAt s c with fader := stepsOf (-480) 48 w }

/-- A write applied to Mute (R42). -/
def writeMute (c : Chan) (w : Word) (s : State) : State :=
  setChannel s c { channelAt s c with mute := switchOf w }

/-- A write applied to Solo (R42, R80). -/
def writeSolo (c : Chan) (w : Word) (s : State) : State :=
  evalSolo (setChannel s c { channelAt s c with solo := switchOf w })

/-- A write applied to Solo Safe (R42, R86). -/
def writeSoloSafe (c : Chan) (w : Word) (s : State) : State :=
  evalGating (setChannel s c { channelAt s c with soloSafe := switchOf w })

/-- A write applied to Scope (R42, R81). -/
def writeScope (c : Chan) (w : Word) (s : State) : State :=
  evalSolo (setChannel s c { channelAt s c with scope := scopeOf w })

/-- A write applied to Groups (R46, R49). -/
def writeGroups (c : Chan) (w : Word) (s : State) : State :=
  evalSolo (setChannel s c { channelAt s c with groups := groupsOf w })

/-- The settings of send k of channel c are changed. -/
def setSend (s : State) (c : Chan) (k : SendIx) (d : SendSettings) : State :=
  setChannel s c { channelAt s c with sends := (channelAt s c).sends.put k d }

/-- A write applied to Send k Bus (R44, R50): the bus is stored, the bus item posted, and a settling taken. -/
def writeSendBus (c : Chan) (k : SendIx) (w : Word) (s : State) : State :=
  let b := busOf w.toNat
  let stored := setSend s c k { (channelAt s c).sends.get k with bus := b }
  settle (setPath stored c (postBus k b (pathAt stored c)))

/-- A write applied to Send k Level (R42). -/
def writeSendLevel (c : Chan) (k : SendIx) (w : Word) (s : State) : State :=
  setSend s c k { (channelAt s c).sends.get k with level := stepsOf (-480) 48 w }

/-- A write applied to Send k Switches (R45). -/
def writeSendSwitches (c : Chan) (k : SendIx) (w : Word) (s : State) : State :=
  setSend s c k { (channelAt s c).sends.get k with on := w.getLsbD 0, invert := w.getLsbD 1 }

/-- A write of one parameter of one channel (R40). A write to a read-only or unassigned id is ignored (R41). -/
def applyWrite (c : Chan) (id : BitVec 16) (w : Word) (s : State) : State :=
  match paramOf id with
  | .source => writeSource c w s
  | .trim => writeTrim c w s
  | .fader => writeFader c w s
  | .mute => writeMute c w s
  | .solo => writeSolo c w s
  | .soloSafe => writeSoloSafe c w s
  | .scope => writeScope c w s
  | .groups => writeGroups c w s
  | .sendBus k => writeSendBus c k w s
  | .sendLevel k => writeSendLevel c k w s
  | .sendSwitches k => writeSendSwitches c k w s
  | .returnState => s
  | .channelDepth => s
  | .sendDelay _ => s
  | .sendCoef _ => s
  | .unassigned => s

/-! ### Reads -/

/-- The Return State answer (R47). -/
def returnStateWord (a : Align) : Word :=
  match a with
  | .normal _ => 0
  | .overdepth => 1

/-- The Channel Depth answer: 15 while Overdepth (R47). -/
def depthWord (a : Align) : Word :=
  match a with
  | .normal d => BitVec.ofNat 32 d.val
  | .overdepth => 15

/-- The value word that answers a read (R47). -/
def readParam (s : State) (c : Chan) (id : BitVec 16) : Word :=
  let r := channelAt s c
  match paramOf id with
  | .source => sourceWord r.source
  | .trim => stepsWord r.trim
  | .fader => stepsWord r.fader
  | .mute => switchWord r.mute
  | .solo => switchWord r.solo
  | .soloSafe => switchWord r.soloSafe
  | .scope => BitVec.ofNat 32 r.scope.val
  | .groups => groupsWord r.groups
  | .sendBus k => busWord (r.sends.get k).bus
  | .sendLevel k => stepsWord (r.sends.get k).level
  | .sendSwitches k => switchesWord (r.sends.get k)
  | .returnState => returnStateWord (alignAt s c)
  | .channelDepth => depthWord (alignAt s c)
  | .sendDelay k => BitVec.ofNat 32 ((pathAt s c).sends.get k).delay.val
  | .sendCoef k => BitVec.ofNat 32 ((pathAt s c).sends.get k).coef
  | .unassigned => 0

end Sys2Proof.Machine
end

