-- ==== Sys2Proof/Machine/Scheduler.lean ====
section
/-! DEFINITION. The Change Scheduler: Bind Collections, placing, the Pending Change Queue, the Due List, applications
(R155 to R170). -/

namespace Sys2Proof.Machine

/-! ### Placing (R161 to R165) -/

/-- Changes put at the end of the Due List, in their order (R162). -/
def placeDue (cs : List LaneChange) (s : State) : State :=
  s.setChs { s.chs with due := s.chs.due ++ cs }

/-- Changes inserted into the queue as one run with one target: after every entry at or below it, before the first entry
above it (R164). -/
def placeQueue (target : Position) (cs : List LaneChange) (s : State) : State :=
  let before := s.chs.queue.takeWhile fun e => decide (e.target.toNat ≤ target.toNat)
  let after := s.chs.queue.dropWhile fun e => decide (e.target.toNat ≤ target.toNat)
  s.setChs { s.chs with queue := before ++ cs.map (fun c => { target := target, change := c }) ++ after }

/-- The changes fit the queue's free places (R164). -/
def fitsQueue (s : State) (cs : List LaneChange) : Bool :=
  decide (s.chs.queue.length + cs.length ≤ Config.queueCapacity)

/-- An unbound change or a closed set is placed whole under its stamp (R161, R165). A set without members places nothing and
raises nothing (R159). -/
def placeChanges (cs : List LaneChange) (stamp : Option Position) (s : State) : State :=
  match cs, stamp with
  | [], _ => s
  | _ :: _, none => placeDue cs s
  | _ :: _, some p =>
    if p.toNat ≤ s.rfr.position.toNat then placeDue cs s
    else if fitsQueue s cs then placeQueue p cs s
    else raise .queueDegraded (placeDue cs s)

/-! ### Bound sets (R155 to R160) -/

/-- The stamp a closed set is placed under: an undetermined one belongs to a set with no members. -/
def placingStamp (st : SetStamp) : Option Position :=
  match st with
  | .undetermined => none
  | .absent => none
  | .stamped p => some p

/-- The set stamp after a message is counted: the first one counted fixes it (R157). -/
def fixStamp (st : SetStamp) (stamp : Option Position) : SetStamp :=
  match st with
  | .undetermined => match stamp with
    | none => .absent
    | some p => .stamped p
  | .absent => .absent
  | .stamped p => .stamped p

/-- A lane's set closes: its held members are placed as one unit, and the collection returns to no set open (R159). -/
def closeSet (lane : LaneIx) (s : State) : State :=
  let col := collectionAt s lane
  placeChanges (col.held.map fun c => { change := c, lane := lane }) (placingStamp col.stamp)
    (setCollection s lane BindCollection.cleared)

/-- The remaining count falls by 1, and the set closes where it reaches 0 (R157). -/
def countDown (lane : LaneIx) (col : BindCollection) (s : State) : State :=
  let t := setCollection s lane { col with remaining := col.remaining - 1 }
  if col.remaining - 1 = 0 then closeSet lane t else t

/-- A Strip Set or Group Level is counted in the lane's open set (R157); `change` is none where this engine does not act on
it. One more than 16 held members overflows the set (R158). -/
def countMember (lane : LaneIx) (change : Option Change) (stamp : Option Position) (s : State) : State :=
  let col := { collectionAt s lane with stamp := fixStamp (collectionAt s lane).stamp stamp }
  match change with
  | none => countDown lane col s
  | some c =>
    if Config.heldCapacity ≤ col.held.length then
      placeChanges [{ change := c, lane := lane }] stamp (closeSet lane (setCollection s lane col))
    else countDown lane { col with held := col.held ++ [c] } s

/-- A well-formed Strip Set or Group Level is taken by the Change Scheduler: counted while a set is open on its lane, else
placed unbound, or dropped where this engine does not act on it (R144, R157, R161). -/
def takeChange (lane : LaneIx) (change : Option Change) (stamp : Option Position) (s : State) : State :=
  if 0 < (collectionAt s lane).remaining then countMember lane change stamp s
  else match change with
    | none => s
    | some c => placeChanges [{ change := c, lane := lane }] stamp s

/-- A Bind opens a set on its lane, or restarts the one that is open with its members and stamp kept (R156). -/
def openSet (lane : LaneIx) (count : Nat) (s : State) : State :=
  let col := collectionAt s lane
  if 0 < col.remaining then setCollection s lane { col with remaining := count }
  else setCollection s lane { BindCollection.cleared with remaining := count }

/-! ### Applying changes at a strobe (R166 to R168) -/

/-- A change is applied: to the Strip Store or to the Group Table (R166). -/
def applyChange (s : State) (c : LaneChange) : State :=
  match c.change with
  | .strip ch id w => applyWrite ch id w s
  | .group gf m => applyGroupLevel gf m s

/-- The queue is flushed unapplied (R168). -/
def flushQueue (s : State) : State :=
  s.setChs { s.chs with queue := [] }

/-- The entries from the front whose target is at or below the current position (R166). -/
def ripeEntries (s : State) : List QueueEntry :=
  s.chs.queue.takeWhile fun e => decide (e.target.toNat ≤ s.rfr.position.toNat)

/-- The applications of a strobe: the ripe queue entries, then the whole Due List (R166). -/
def applyDueChanges (s : State) : State :=
  let changes := (ripeEntries s).map (fun e => e.change) ++ s.chs.due
  let rest := s.chs.queue.dropWhile fun e => decide (e.target.toNat ≤ s.rfr.position.toNat)
  changes.foldl applyChange (s.setChs { s.chs with queue := rest, due := [] })

/-- Every collection, the queue and the Due List emptied (R32). -/
def clearScheduler (s : State) : State :=
  s.setChs Chs.cleared

end Sys2Proof.Machine
end

