-- ==== Sys2Proof/Machine/Life.lean ====
section
/-! DEFINITION. Station Life: resets, the boot record, Listening, Joining, Contributing, Silent, Isolated, the reference line
(R21 to R36), with what each block takes at those moments (R39, R69, R90, R110, R111, R122, R124, R135, R141, R154, R155, R171). -/

namespace Sys2Proof.Machine

/-! ### Resets (R33) -/

/-- The station a strap level names (R22): the strap of the highest weight is the most significant. -/
def nodeOfStraps (straps : BitVec 4) : LaneIx :=
  straps.toFin

/-- Power-on: every block at its power-on values, the node ID read from the straps (R33, R39, R69, R90, R110). -/
def powerOnReset (straps : BitVec 4) (s : State) : State :=
  (State.reset.setStc { Stc.default with nodeId := nodeOfStraps straps }).setPending s.pending

/-- The slots of a station that enters Booting again: the assignments stand until they are taken anew, the delays are set in
force from the alignment state, the ramps are Held (R110, R111, R122). -/
def resetSlot (s : State) (p : SlotPath) : SlotPath :=
  { p with
    delay := match p.bus with
      | none => p.delay
      | some b => slotTarget s b
    ramp := rampHeld
    pending := none }

/-- The boot settings in Booting: they stand until taken anew, but for the notice mask, which is 0 (R33). -/
def bootingSettings (b : BootSettings) : BootSettings :=
  { b with noticeMask := 0 }

/-- Pin reset: the power-on values, with cause ResetPin and the Stop Record kept (R33). The strip base and the boot record copy
stand until taken anew. -/
def pinResetTaken (straps : BitVec 4) (s : State) : State :=
  let t := powerOnReset straps s
  let u := t.setStc { t.stc with
    stripBase := s.stc.stripBase, boot := bootingSettings s.stc.boot, resetCause := .resetPin, stop := s.stc.stop }
  u.setMxd { u.mxd with slots := Table.make fun o => resetSlot u (s.mxd.slots.get o) }

/-- The Station Controller after a station reset (R33). -/
def stationResetStc (straps : BitVec 4) (x : Stc) : Stc :=
  { x with
    station := .booting, nodeId := nodeOfStraps straps, boot := bootingSettings x.boot, resetCause := .stationReset,
    conditions := 0, listeningCount := 0, joiningComplete := false }

/-- The Alignment Unit of a station reset before its settling: every latch kept, every other value as R110 gives (R111). -/
def stationResetAlu (a : Alu) : Alu :=
  { channels := Table.make fun c => match a.channels.get c with
      | .overdepth => .overdepth
      | .normal _ => .normal 0
    ownNeeds := Table.fill 48 none
    aligned := Table.fill 48 0 }

/-- A channel's values in force set straight from the tables, with no item pending, its history 0, its ramp Held, its
coefficients at their targets (R39, R69, R74, R122). -/
def resetPath (s : State) (c : Chan) : ChannelPath :=
  { history := Table.fill 15 0
    source := (channelAt s c).source
    sends := Table.make fun k =>
      { bus := ((channelAt s c).sends.get k).bus, delay := delayTarget s c k, coef := sendTarget s c k, glide := .holding }
    ramp := rampHeld
    pending := PendingSet.empty
    meterCoef := meterTarget s c }

/-- The Mix Datapath after a station reset (R122, R135). -/
def resetMxd (s : State) : Mxd :=
  { channels := Table.make (resetPath s), busHistory := Table.fill 48 (Table.fill 15 0), totals := none,
    slots := Table.make fun o => resetSlot s (s.mxd.slots.get o), outputs := Table.fill 16 0, locks := Table.fill 6 false }

/-- The Link Interface after a station reset (R10, R33): no arrival still to come in the frame is taken; the lane driven in the
frame in progress is driven whole, and the next strobe leaves the own lane undriven (R6). -/
def stationResetLif (x : Lif) : Lif :=
  { Lif.cleared with driven := x.driven }

/-- The blocks of a station reset that forget all they held, before the settling (R10, R28, R141, R154, R155, R171). -/
def stationResetBlocks (straps : BitVec 4) (s : State) : State :=
  evalSolo
    (((((((s.setStc (stationResetStc straps s.stc)).setLif (stationResetLif s.lif)).setRfr Rfr.cleared).setMse Mse.cleared).setChs
      Chs.cleared).setMtu Mtu.cleared).setAlu (stationResetAlu s.alu))

/-- Station reset (R33): settings, Group Table and latches are kept; the settling's outcome is set in force directly, and an
Overdepth it latches is reported after the flags are cleared (R111). DESIGN CHOICE: its Notice carries the position after the
reset, 0, where R178 gives an occurrence at an arrival the position of the frame's strobe (notes/assumptions/36.md). -/
def stationResetTaken (straps : BitVec 4) (s : State) : State :=
  let t := stationResetBlocks straps s
  let u := t.setAlu (settled t).1
  raiseIf (settled t).2 .overdepth (u.setMxd (resetMxd u))

/-- The reset pin is asserted (R33, R133): nothing is driven, no frame is received, no total stands, the outputs give 0. -/
def pinAsserted (s : State) : State :=
  let t := silenceOutputs (discardTotals s)
  (t.setLif { t.lif with receiving := false, driven := none }).setResetPin true

/-! ### The boot record (R22 to R24) -/

/-- A completed record passes its check (R23). -/
def recordPasses (r : Table 22 Byte) : Bool :=
  decide ((r.get 0).toNat = Config.formatTag) && decide ((r.cells.map BitVec.toNat).sum % 256 = 0)

/-- The boot settings of a record that passes (R23). -/
def recordSettings (r : Table 22 Byte) : BootSettings :=
  { force := (r.get 1).getLsbD 0
    forcedBase := r.get 2 ++ r.get 3
    noticeMask := r.get 4
    slots := Table.make fun o => busOf (r.get ⟨5 + o.val, by omega⟩).toNat }

/-- The boot settings of a failed record (R23). -/
def failedSettings : BootSettings :=
  BootSettings.default

/-- The strip base (R24). -/
def stripBaseOf (b : BootSettings) (node : LaneIx) : Nat :=
  if b.force then min b.forcedBase.toNat 720 else node.val * 48

/-- An output slot as the boot settings set it (R124). R124 gives a delay to an assigned slot alone: an unassigned slot's delay in
force is held as 0 (DESIGN CHOICE, notes/assumptions/8.md). -/
def bootSlot (s : State) (b : Option Bus) : SlotPath :=
  { bus := b
    delay := match b with
      | none => 0
      | some b => slotTarget s b
    ramp := rampHeld
    pending := none }

/-- The boot settings are taken (R23, R24, R124). -/
def takeSettings (b : BootSettings) (s : State) : State :=
  let t := s.setStc { s.stc with boot := b, stripBase := stripBaseOf b s.stc.nodeId }
  t.setMxd { t.mxd with slots := Table.make fun o => bootSlot t (b.slots.get o) }

/-- The station enters Listening from Booting: the count at 0, the strobe timer started (R25, R29). -/
def leaveBooting (s : State) : State :=
  (s.setStc { s.stc with station := .listening, listeningCount := 0 }).setRfr { s.rfr with timer := .running }

/-- The boot read ends with a record that passes, or fails with BootFault raised once the settings are taken (R22, R23). -/
def bootReadEnds (settings : Option BootSettings) (s : State) : State :=
  match settings with
  | some b => leaveBooting (takeSettings b s)
  | none => leaveBooting (raise .bootFault (takeSettings failedSettings s))

/-! ### Leaving the link (R30 to R32, R35) -/

/-- The state left field for a station state (R35). -/
def stateLeftOf (st : StationState) : StateLeft :=
  match st with
  | .listening => .listening
  | .joining => .joining
  | .contributing => .contributing
  | .booting | .silent | .isolated => .none

/-- The station stops in a state, writing the whole Stop Record (R35). -/
def stopIn (st : StationState) (cause : StopCause) (s : State) : State :=
  s.setStc { s.stc with
    station := st
    joiningComplete := false
    stop := { cause := cause, position := s.rfr.position, left := stateLeftOf s.stc.station } }

/-- Silent is entered: the message in progress is discarded (R30, R154). -/
def enterSilent (cause : StopCause) (s : State) : State :=
  discardInProgress (stopIn .silent cause s)

/-- The Reference Receiver at the expiry of the strobe timer (R29). -/
def lostReference (r : Rfr) : Rfr :=
  { r with known := false, reference := .lost, timer := .stopped }

/-- The Loss at the blocks: the totals are discarded, the outputs give 0, no frame is in progress (R127, R134). -/
def lossAtBlocks (s : State) : State :=
  let t := silenceOutputs (discardTotals (s.setRfr (lostReference s.rfr)))
  t.setLif { t.lif with receiving := false, driven := none }

/-- A Loss is acted on (R29, R31): a Silent station stays Silent, the others go to Isolated. -/
def lossTaken (s : State) : State :=
  if takesChanges s then stopIn .isolated .referenceLoss (lossAtBlocks s) else lossAtBlocks s

/-- Isolated ends in Listening (R32, R112): the Lane Table, the link scope state, the messages and the changes are cleared, the
ramps are Held, and the Alignment Unit settles from the own needs alone. The strobe's frame is counted by the caller. -/
def leaveIsolated (s : State) : State :=
  let t := s.setStc { s.stc with station := .listening, listeningCount := 0 }
  let t := t.setLif { t.lif with lanes := Table.fill 16 LaneRecord.cleared, ownMode := .watched }
  let t := clearWaitingMarks (emptyClasses (t.setMse { t.mse with reassembly := Table.fill 16 Reassembly.idle }))
  settle (holdRamps (evalLinkScopes (clearScheduler t)))

/-! ### Joining and Contributing (R25 to R27) -/

/-- The station enters Joining: the own counts at 0, the own-index record Own with presence Absent (R11, R26). -/
def enterJoining (s : State) : State :=
  let t := setLane s s.stc.nodeId { laneAt s s.stc.nodeId with presence := .absent, validRun := 0, invalidRun := 0 }
  (t.setLif { t.lif with ownMode := .own, mismatch := 0, cleanRun := 0, ownFrame := 0 }).setStc
    { t.stc with station := .joining, joiningComplete := false }

/-- The end of Listening: the own-index record's presence decides (R25). -/
def decideListening (s : State) : State :=
  match (laneAt s s.stc.nodeId).presence with
  | .absent => enterJoining s
  | .joining => enterSilent .nodeInUse s
  | .present => enterSilent .nodeInUse s

/-- The station enters Contributing (R27): an Announce is queued and the meter window starts. -/
def enterContributing (s : State) : State :=
  startMetering (queueAnnounce (s.setStc { s.stc with station := .contributing, joiningComplete := false }))

/-- The Listening frame count after a further frame; it does not pass 128 (R25). -/
def nextListening (n : Nat) : Nat :=
  if n < Config.listeningFrames then n + 1 else Config.listeningFrames

/-- The change of station state a strobe brings, before the frame it opens is formed (R25, R27, R32). -/
def stationAtStrobe (s : State) : State :=
  match s.stc.station with
  | .isolated =>
    let t := leaveIsolated s
    t.setStc { t.stc with listeningCount := 1 }
  | .listening => s.setStc { s.stc with listeningCount := nextListening s.stc.listeningCount }
  | .joining => if s.stc.joiningComplete then enterContributing s else s
  | .booting => s
  | .contributing => s
  | .silent => s

/-! ### The reference line (R28) -/

/-- What a strobe is reported as (R28). -/
inductive StrobeEvent where
  | advance | park | locate | silentLocate
  deriving DecidableEq, Repr

/-- The strobe's position compared with the current one (R28): one more without wrap is an Advance. -/
def classify (r : Rfr) (p : Position) : StrobeEvent :=
  if !r.known then .silentLocate
  else if p.toNat = r.position.toNat + 1 then .advance
  else if p = r.position then .park
  else .locate

/-- The Reference Receiver takes a strobe (R28, R29): in Booting the timer stays as it is. -/
def strobeRfr (s : State) (p : Position) : Rfr :=
  { position := p, known := true, reference := .running,
    timer := if s.stc.station = .booting then s.rfr.timer else .running }

/-- The Reference Receiver takes a strobe, and a Locate is raised (R28). -/
def takeStrobe (p : Position) (s : State) : State :=
  raiseIf (decide (classify s.rfr p = .locate)) .locate (s.setRfr (strobeRfr s p))

/-- The strobe is a Locate of either kind, which flushes the queue (R168). -/
def flushes (e : StrobeEvent) : Bool :=
  decide (e = .locate) || decide (e = .silentLocate)

end Sys2Proof.Machine
end

