-- ==== Sys2Proof/Machine/Messages.lean ====
section
/-! DEFINITION. Control Messages: taking each kind, judging, reassembly (R136 to R150). Every message kind has one `take`
operation, which both a completed message of a lane and the table's row of that name use. -/

namespace Sys2Proof.Machine

/-! ### Taking each kind (R143 to R150) -/

/-- A Strip Set is taken (R144): handed to the Change Scheduler, acted on where its strip lies in range. -/
def takeStripSet (lane : LaneIx) (strip param : BitVec 16) (value : Word) (stamp : Option Position) (s : State) : State :=
  if takesChanges s then
    takeChange lane ((stripChannel s strip).map fun c => Change.strip c param value) stamp s
  else s

/-- A Group Level is taken (R144): always acted on. -/
def takeGroupLevel (lane : LaneIx) (groupFlags master : Word) (stamp : Option Position) (s : State) : State :=
  if takesChanges s then takeChange lane (some (Change.group groupFlags master)) stamp s else s

/-- A Bind is taken (R145, R156); one whose count is outside 1..4 is malformed (R142). -/
def takeBind (lane : LaneIx) (count : Word) (s : State) : State :=
  if 1 ≤ count.toNat ∧ count.toNat ≤ 4 then
    if takesChanges s then openSet lane count.toNat s else s
  else messageFault s

/-- A strip-addressed message is acted on where the station state allows it and the strip lies in range (R143). -/
def onStrip (strip : BitVec 16) (act : Chan → State → State) (s : State) : State :=
  if takesChanges s then
    match stripChannel s strip with
    | some c => act c s
    | none => s
  else s

/-- A Strip Query is taken (R146). -/
def takeStripQuery (lane : LaneIx) (strip param : BitVec 16) (s : State) : State :=
  onStrip strip (fun c t =>
    queueStripAnswer { lane := lane, strip := strip, param := param, value := readParam t c param } t) s

/-- A Watch is taken (R147, R172). -/
def takeWatch (strip : BitVec 16) (s : State) : State :=
  onStrip strip (watchStrip strip) s

/-- An Unwatch is taken (R147, R173). -/
def takeUnwatch (strip : BitVec 16) (s : State) : State :=
  onStrip strip (fun _ => unwatchStrip strip) s

/-- A Rearm is taken (R107, R147). -/
def takeRearm (strip : BitVec 16) (s : State) : State :=
  onStrip strip rearmChannel s

/-- A station-addressed message: malformed with destination 30 (R142), else acted on where the station state allows it and it
is addressed to this station (R143). -/
def onStation (dest : BitVec 5) (allowed : State → Bool) (act : State → State) (s : State) : State :=
  if dest.toNat = 30 then messageFault s
  else if allowed s && addressed s dest then act s
  else s

/-- A Clear Conditions is taken (R148). -/
def takeClearConditions (dest : BitVec 5) (mask : Byte) (s : State) : State :=
  onStation dest takesChanges (clearFlags mask) s

/-- A Roll Call is taken (R149). -/
def takeRollCall (dest : BitVec 5) (s : State) : State :=
  onStation dest takesChanges queueAnnounce s

/-- A Station Reset is taken (R150): in Silent too. -/
def takeStationReset (dest : BitVec 5) (straps : BitVec 4) (s : State) : State :=
  onStation dest takesFrames (stationResetTaken straps) s

/-! ### Judging (R137, R138, R142) -/

/-- Bits 31–16 of a payload word: a strip or a group (R138). -/
def highHalf (w : Word) : BitVec 16 :=
  w.extractLsb' 16 16

/-- Bits 15–0 of a payload word: a parameter id (R138). -/
def lowHalf (w : Word) : BitVec 16 :=
  w.extractLsb' 0 16

/-- The kind field of a head word. -/
def headKind (h : Word) : Nat :=
  field h 27 5

/-- The length field of a head word. -/
def headLength (h : Word) : Nat :=
  field h 24 3

/-- The destination field of a head word. -/
def headDest (h : Word) : BitVec 5 :=
  h.extractLsb' 19 5

/-- The stamp flag of a head word. -/
def headStamped (h : Word) : Bool :=
  h.getLsbD 18

/-- The message kinds, with one name for the peer outgoing class and one for the unknown class (R137). -/
inductive Kind where
  | stripSet | stripQuery | groupLevel | bind | watch | unwatch | rearm | clearConditions | rollCall | stationReset
  | peerOutgoing | unknown
  deriving DecidableEq, Repr

/-- The kind a kind field names (R137): 16 to 19 are peer outgoing; 0, 11..15 and 20..31 are unknown. -/
def kindOf (n : Nat) : Kind :=
  if n = 1 then .stripSet
  else if n = 2 then .stripQuery
  else if n = 3 then .groupLevel
  else if n = 4 then .bind
  else if n = 5 then .watch
  else if n = 6 then .unwatch
  else if n = 7 then .rearm
  else if n = 8 then .clearConditions
  else if n = 9 then .rollCall
  else if n = 10 then .stationReset
  else if n = 16 ∨ n = 17 ∨ n = 18 ∨ n = 19 then .peerOutgoing
  else .unknown

/-- A Strip Set: two payload words without a stamp, three with one (R137). -/
def judgeStripSet (lane : LaneIx) (head : Word) (payload : List Word) (s : State) : State :=
  match payload with
  | [a, v] => if headStamped head then messageFault s else takeStripSet lane (highHalf a) (lowHalf a) v none s
  | [a, v, p] => if headStamped head then takeStripSet lane (highHalf a) (lowHalf a) v (some p) s else messageFault s
  | _ => messageFault s

/-- A Group Level: two payload words without a stamp, three with one (R137). -/
def judgeGroupLevel (lane : LaneIx) (head : Word) (payload : List Word) (s : State) : State :=
  match payload with
  | [a, v] => if headStamped head then messageFault s else takeGroupLevel lane a v none s
  | [a, v, p] => if headStamped head then takeGroupLevel lane a v (some p) s else messageFault s
  | _ => messageFault s

/-- A kind that requires one payload word (R137). -/
def judgeOne (act : Word → State → State) (payload : List Word) (s : State) : State :=
  match payload with
  | [a] => act a s
  | _ => messageFault s

/-- A kind that requires no payload word (R137). -/
def judgeNone (act : State → State) (payload : List Word) (s : State) : State :=
  match payload with
  | [] => act s
  | _ => messageFault s

/-- A message completed with mark Keep: judged, and handed on (R142, R143). A payload whose length is not the one the kind
requires, or an unknown kind, makes it malformed; a peer outgoing kind is dropped, whatever its length and destination. -/
def completeMessage (lane : LaneIx) (straps : BitVec 4) (head : Word) (payload : List Word) (s : State) : State :=
  match kindOf (headKind head) with
  | .stripSet => judgeStripSet lane head payload s
  | .stripQuery => judgeOne (fun a => takeStripQuery lane (highHalf a) (lowHalf a)) payload s
  | .groupLevel => judgeGroupLevel lane head payload s
  | .bind => judgeOne (takeBind lane) payload s
  | .watch => judgeOne (fun a => takeWatch (highHalf a)) payload s
  | .unwatch => judgeOne (fun a => takeUnwatch (highHalf a)) payload s
  | .rearm => judgeOne (fun a => takeRearm (highHalf a)) payload s
  | .clearConditions => judgeOne (fun m => takeClearConditions (headDest head) (m.extractLsb' 0 8)) payload s
  | .rollCall => judgeNone (takeRollCall (headDest head)) payload s
  | .stationReset => judgeNone (takeStationReset (headDest head) straps) payload s
  | .peerOutgoing => s
  | .unknown => messageFault s

/-! ### Reassembly (R139, R140) -/

/-- A word of a lane's stream is taken by the lane's reassembly record (R139). -/
def takeWord (lane : LaneIx) (straps : BitVec 4) (w : Word) (s : State) : State :=
  match reassemblyAt s lane with
  | .idle =>
    if w = 0 then s
    else if headLength w = 0 then completeMessage lane straps w [] s
    else setReassembly s lane (.collecting .keep w (headLength w) [])
  | .collecting mark head remaining soFar =>
    if 2 ≤ remaining then setReassembly s lane (.collecting mark head (remaining - 1) (soFar ++ [w]))
    else
      let t := setReassembly s lane .idle
      match mark with
      | .keep => completeMessage lane straps head (soFar ++ [w]) t
      | .discard => t

/-- The two slot words of an arrival, slot 0 first (R136). After a Station Reset in slot 0 the slot 1 word is not read
(R150): the station is then in Booting. -/
def takeSlots (lane : LaneIx) (straps : BitVec 4) (w0 w1 : Word) (s : State) : State :=
  let t := takeWord lane straps w0 s
  if t.stc.station = .booting then t else takeWord lane straps w1 t

/-- The reassembly record after a frame of its lane was lost (R140). -/
def afterLostFrame (r : Reassembly) : Reassembly :=
  match r with
  | .idle => .idle
  | .collecting _ head remaining soFar =>
    if 3 ≤ remaining then .collecting .discard head (remaining - 2) soFar else .idle

/-- A Present lane's frame was lost (R140). -/
def lostFrame (lane : LaneIx) (s : State) : State :=
  setReassembly s lane (afterLostFrame (reassemblyAt s lane))

end Sys2Proof.Machine
end

