-- ==== Sys2Proof/Machine/Link.lean ====
section
/-! DEFINITION. The Stage Link: check value, validity, header, presence, contents, readback, and the lane the engine composes
(R1 to R20). -/

namespace Sys2Proof.Machine

/-! ### The check value (R4) -/

/-- Addition of half-words with end-around carry (R4). -/
def addHalf (a b : Nat) : Nat :=
  if a + b ≤ 0xFFFF then a + b else a + b - 0x10000 + 1

/-- The end-around sum of the half-words of some words, high half first (R4). -/
def halfSum (ws : List Word) : Nat :=
  ws.foldl (fun acc w => addHalf (addHalf acc (field w 16 16)) (field w 0 16)) 0

/-- The check value over words 0–52 (R4). -/
def checkValue (ws : List Word) : Nat :=
  0xFFFF - halfSum (ws.take 53)

/-! ### Reading a lane (R3, R5) -/

/-- The sync value of a Lane Mark. -/
def markSync (m : Word) : Nat := field m 24 8
/-- The node ID of a Lane Mark. -/
def markNode (m : Word) : Nat := field m 20 4
/-- The station state field of a Lane Mark. -/
def markState (m : Word) : Nat := field m 18 2
/-- The tile index r of a Lane Mark. -/
def markTile (m : Word) : Nat := field m 15 3

/-- The words of a lane are valid for its index (R5). -/
def wordsValid (lane : LaneIx) (ws : Table 54 Word) : Bool :=
  decide ((ws.get 53).toNat = checkValue ws.cells) &&
  decide (markSync (ws.get 0) = Config.syncValue) &&
  decide (markNode (ws.get 0) = lane.val) &&
  (decide (markState (ws.get 0) = 1) || decide (markState (ws.get 0) = 2))

/-- The words of a valid lane; none where the lane is undriven, collided or fails R5. -/
def validWords (lane : LaneIx) (rx : Reception) : Option (Table 54 Word) :=
  match rx with
  | .undriven => none
  | .collided => none
  | .words ws => if wordsValid lane ws then some ws else none

/-- The bus word of bus b in a lane (1.2). -/
def busWordOf (ws : Table 54 Word) (b : Bus) : Word :=
  ws.get ⟨3 + b.val, by omega⟩

/-- The scope bits of a Scope Word (R3). -/
def scopeBitsOf (w : Word) : ScopeBits :=
  Table.make fun sc => w.getLsbD (24 + sc.val)

/-- A tile field: 0..14 a depth, 15..30 read as 14, 31 none (R3). -/
def needOfField (n : Nat) : Need :=
  if n = 31 then none
  else if h : n < 15 then some ⟨n, h⟩ else some 14

/-- A need row with the six needs of a tile written: bus 6r in the highest field (R3, R16). -/
def rowWithTile (row : Table 48 Need) (r : Nat) (tile : Word) : Table 48 Need :=
  Table.make fun b => if b.val / 6 = r then needOfField (field tile (25 - 5 * (b.val % 6)) 5) else row.get b

/-! ### Composing the own lane (R7 to R9) -/

/-- The Lane Mark of the own lane (R7). -/
def composeMark (node : LaneIx) (state : Nat) (r : Fin 8) : Word :=
  place Config.syncValue 24 ||| place node.val 20 ||| place state 18 ||| place r.val 15

/-- The Scope Word: scope bits and condition summary (R7). -/
def composeScope (scopes : ScopeBits) (conditions : Byte) : Word :=
  (List.finRange 8).foldl (fun w sc => w ||| placeBit (scopes.get sc) (24 + sc.val)) (place conditions.toNat 16)

/-- A need as a tile field: none is 31 (R7). -/
def needField (n : Need) : Nat :=
  match n with
  | some d => d.val
  | none => 31

/-- The Depth Tile for tile index r (R7, R99). -/
def composeTile (needs : Table 48 Need) (r : Fin 8) : Word :=
  (List.finRange 6).foldl
    (fun w i => w ||| place (needField (needs.get ⟨6 * r.val + i.val, by omega⟩)) (25 - 5 * i.val)) 0

/-- The header of the own lane, from the values the blocks hold (R7). -/
def composeHeader (s : State) (state : Nat) : List Word :=
  [composeMark s.stc.nodeId state s.lif.ownFrame, composeScope s.gsu.ownScopes s.stc.conditions,
   composeTile s.alu.ownNeeds s.lif.ownFrame]

/-- The Check word over the words before it (R4). -/
def checkWord (ws : List Word) : Word :=
  place (checkValue ws) 0

/-- A whole lane: header, bus words, message slots, check (1.2). -/
def composeLane (h0 h1 h2 : Word) (buses : Table 48 Word) (m0 m1 : Word) : Table 54 Word :=
  ⟨[h0, h1, h2] ++ buses.cells ++ [m0, m1, checkWord ([h0, h1, h2] ++ buses.cells ++ [m0, m1])], by
    simp [buses.len]⟩

/-! ### Presence (R12 to R14) -/

/-- What an arrival is to a lane record: invalid, or valid with a station state field of 1 or 2. -/
inductive ArrivalKind where
  | invalid | restarted | contributing
  deriving DecidableEq, Repr

/-- The kind of an arrival (R5). -/
def arrivalKind (v : Option (Table 54 Word)) : ArrivalKind :=
  match v with
  | none => .invalid
  | some ws => if markState (ws.get 0) = 2 then .contributing else .restarted

/-- What an arrival brings about beyond the record's own fields. -/
inductive PresenceEvent where
  | nothing | contentsTaken | frameLost | leftByRestart | leftByLoss
  deriving DecidableEq, Repr

/-- The presence rules (R12 to R14): the record's presence and counts after an arrival. -/
def presenceStep (r : LaneRecord) (k : ArrivalKind) : LaneRecord × PresenceEvent :=
  match r.presence, k with
  | .absent, .invalid => ({ r with validRun := 0, invalidRun := 0 }, .nothing)
  | .absent, .restarted => ({ r with presence := .joining, validRun := 1, invalidRun := 0 }, .nothing)
  | .absent, .contributing => ({ r with presence := .joining, validRun := 1, invalidRun := 0 }, .nothing)
  | .joining, .invalid => ({ r with presence := .absent, validRun := 0, invalidRun := 0 }, .nothing)
  | .joining, .restarted => ({ r with validRun := min Config.presentRun (r.validRun + 1) }, .nothing)
  | .joining, .contributing =>
    if Config.presentRun ≤ r.validRun then ({ r with presence := .present, invalidRun := 0 }, .contentsTaken)
    else ({ r with validRun := r.validRun + 1 }, .nothing)
  | .present, .invalid =>
    if r.invalidRun + 1 < Config.lossRun then ({ r with invalidRun := r.invalidRun + 1 }, .frameLost)
    else ({ r with presence := .absent, validRun := 0, invalidRun := 0 }, .leftByLoss)
  | .present, .restarted => ({ r with presence := .joining, invalidRun := 0 }, .leftByRestart)
  | .present, .contributing => ({ r with invalidRun := 0 }, .contentsTaken)

/-! ### Contents and leaving Present (R15 to R17) -/

/-- The scope bits and the tile of a taken arrival are stored (R15, R16). -/
def storeHeader (lane : LaneIx) (ws : Table 54 Word) (s : State) : State :=
  let r := laneAt s lane
  setLane s lane { r with
    scopes := scopeBitsOf (ws.get 1)
    needs := rowWithTile r.needs (markTile (ws.get 0)) (ws.get 2) }

/-- The contents of a valid arrival of a Present lane are taken (R15, R16, R84, R96, R125, R136): header, bus words, then the
slot words. -/
def takeContents (lane : LaneIx) (straps : BitVec 4) (ws : Table 54 Word) (s : State) : State :=
  takeSlots lane straps (ws.get 51) (ws.get 52)
    (addBusWords (fun b => (busWordOf ws b).toInt) (settle (evalLinkScopes (storeHeader lane ws s))))

/-- A lane leaves Present (R17, R84, R96, R141, R160): its needs and scope byte, its partial message and its collection. -/
def leavePresent (lane : LaneIx) (s : State) : State :=
  let t := setLane s lane { laneAt s lane with scopes := Table.fill 8 false, needs := Table.fill 48 none }
  let t := setCollection (setReassembly t lane .idle) lane BindCollection.cleared
  settle (evalLinkScopes t)

/-- A Present peer lane is lost: it has become Absent, leaves Present, and LaneLoss is raised (R14). -/
def losePeer (lane : LaneIx) (s : State) : State :=
  raise .laneLoss (leavePresent lane s)

/-- What an arrival's presence event does for a peer lane (R14 to R17). -/
def actOnPresence (lane : LaneIx) (straps : BitVec 4) (v : Option (Table 54 Word)) (e : PresenceEvent) (s : State) : State :=
  match e with
  | .nothing => s
  | .contentsTaken => match v with
    | some ws => takeContents lane straps ws s
    | none => s
  | .frameLost => lostFrame lane s
  | .leftByRestart => leavePresent lane s
  | .leftByLoss => losePeer lane s

/-- The arrival of a peer lane (R2, R12 to R17). -/
def peerArrival (lane : LaneIx) (straps : BitVec 4) (v : Option (Table 54 Word)) (s : State) : State :=
  let step := presenceStep (laneAt s lane) (arrivalKind v)
  actOnPresence lane straps v step.2 (setLane s lane step.1)

/-! ### The own-index lane (R11, R18, R19, R25) -/

/-- The Listening frame count has reached 128, so the own-index arrival ends Listening (R25). -/
def listeningDone (s : State) : Bool :=
  decide (s.stc.station = .listening) && decide (s.stc.listeningCount = Config.listeningFrames)

/-- The arrival of the own-index lane while its record is Watched: the presence rules, handing nothing on, and the end of
Listening where it is due (R11, R25). -/
def watchedArrival (v : Option (Table 54 Word)) (s : State) : State :=
  let t := setLane s s.stc.nodeId (presenceStep (laneAt s s.stc.nodeId) (arrivalKind v)).1
  if listeningDone t then decideListening t else t

/-- A clean readback (R18, R19): in Joining the clean-run count rises, and at 64 Joining complete is reported. -/
def cleanReadback (s : State) : State :=
  let t := s.setLif { s.lif with mismatch := 0 }
  if s.stc.station = .joining then
    let n := min Config.joiningRun (s.lif.cleanRun + 1)
    (t.setLif { t.lif with cleanRun := n }).setStc
      { t.stc with joiningComplete := t.stc.joiningComplete || decide (n = Config.joiningRun) }
  else t

/-- A readback mismatch (R18, R19): at the fourth in a row the station enters Silent. -/
def mismatchReadback (s : State) : State :=
  let n := min Config.conflictRun (s.lif.mismatch + 1)
  let t := s.setLif { s.lif with
    mismatch := n
    cleanRun := if s.stc.station = .joining then 0 else s.lif.cleanRun }
  if n = Config.conflictRun then enterSilent .laneConflict t else t

/-- The arrival of the own lane taken as a readback of the lane driven in this frame (R18). -/
def readback (v driven : Option (Table 54 Word)) (s : State) : State :=
  if v = driven then cleanReadback s else mismatchReadback s

/-- The arrival of the own-index lane (R11, R18). A frame in which the engine drove nothing has no readback. -/
def ownArrival (v : Option (Table 54 Word)) (s : State) : State :=
  match s.lif.ownMode with
  | .watched => watchedArrival v s
  | .own =>
    if drivesLane s then
      match s.lif.driven with
      | some ws => readback v (some ws) s
      | none => s
    else s

/-- The arrival of a lane of a frame that is received (R2). -/
def laneArrives (lane : LaneIx) (rx : Reception) (straps : BitVec 4) (s : State) : State :=
  if lane = s.stc.nodeId then ownArrival (validWords lane rx) s
  else peerArrival lane straps (validWords lane rx) s

end Sys2Proof.Machine
end

