-- ==== Sys2Proof/Machine/MessageCommands.lean ====
section
/-! DEFINITION. The meanings of the commands that are a completed message of a kind (chapters 9 to 11). A message completes at
an arrival, and none is taken while the reset pin is asserted (R33). -/

namespace Sys2Proof.Machine

/-- An effect that needs an arrival or a strobe to be taken: none is while the reset pin is asserted (R33). -/
def unlessPinned (f : State → State) (s : State) : State :=
  if s.resetPin then s else f s

/-- STATION_RESET (R150). -/
def execStationReset (dest : BitVec 5) (straps : BitVec 4) (s : State) : Host.Outcome State Fault Refusal :=
  .next (unlessPinned (takeStationReset dest straps) s)

/-- STRIP_SET (R144). -/
def execStripSet (lane : LaneIx) (strip param : BitVec 16) (value : Word) (stamp : Option Position) (s : State) :
    Host.Outcome State Fault Refusal :=
  .next (unlessPinned (takeStripSet lane strip param value stamp) s)

/-- STRIP_QUERY (R146). -/
def execStripQuery (lane : LaneIx) (strip param : BitVec 16) (s : State) : Host.Outcome State Fault Refusal :=
  .next (unlessPinned (takeStripQuery lane strip param) s)

/-- GROUP_LEVEL (R144). -/
def execGroupLevel (lane : LaneIx) (groupFlags master : Word) (stamp : Option Position) (s : State) :
    Host.Outcome State Fault Refusal :=
  .next (unlessPinned (takeGroupLevel lane groupFlags master stamp) s)

/-- BIND (R156). -/
def execBind (lane : LaneIx) (count : Word) (s : State) : Host.Outcome State Fault Refusal :=
  .next (unlessPinned (takeBind lane count) s)

/-- WATCH (R172). -/
def execWatch (strip : BitVec 16) (s : State) : Host.Outcome State Fault Refusal :=
  .next (unlessPinned (takeWatch strip) s)

/-- UNWATCH (R173). -/
def execUnwatch (strip : BitVec 16) (s : State) : Host.Outcome State Fault Refusal :=
  .next (unlessPinned (takeUnwatch strip) s)

/-- REARM (R107). -/
def execRearm (strip : BitVec 16) (s : State) : Host.Outcome State Fault Refusal :=
  .next (unlessPinned (takeRearm strip) s)

/-- CLEAR_CONDITIONS (R148). -/
def execClearConditions (dest : BitVec 5) (mask : Byte) (s : State) : Host.Outcome State Fault Refusal :=
  .next (unlessPinned (takeClearConditions dest mask) s)

/-- ROLL_CALL (R149). -/
def execRollCall (dest : BitVec 5) (s : State) : Host.Outcome State Fault Refusal :=
  .next (unlessPinned (takeRollCall dest) s)

end Sys2Proof.Machine
end

