-- ==== Sys2Proof/Machine/InnerCommands.lean ====
section
/-! DEFINITION. The meanings of the rows that name an event inside an arrival, a message or a strobe. The arrival, message or
strobe that causes such an event takes it within itself (the same operation stands there). By itself the command is that one
event, taken where the state stands right before it: a count one short of its limit, a ramp at K = 0 in Out. Elsewhere the
event does not come about and the state stays as it is. Neither the frame in progress nor the reference is looked at
(DESIGN CHOICE, notes/assumptions/5.md). -/

namespace Sys2Proof.Machine

/-- The lane record is Present, of a peer or Watched, and its invalid-run count is one short of 16 or more (R14). -/
def lossDue (lane : LaneIx) (s : State) : Bool :=
  decide ((laneAt s lane).presence = .present) && decide (Config.lossRun ≤ (laneAt s lane).invalidRun + 1) &&
    (decide (lane ≠ s.stc.nodeId) || decide (s.lif.ownMode = .watched))

/-- LANE_LOST (R14): the invalid arrival that brings the count to 16. DESIGN CHOICE: whether a frame in progress is received is not
looked at, so a Silent station takes it while its reference is Lost too (notes/assumptions/5.md). -/
def execLaneLost (lane : LaneIx) (s : State) : Host.Outcome State Fault Refusal :=
  .next (if hearsLanes s && lossDue lane s then laneArrives lane .undriven 0 s else s)

/-- LANE_CONFLICT (R18): the mismatch that brings the readback mismatch count to 4. -/
def execLaneConflict (s : State) : Host.Outcome State Fault Refusal :=
  .next (if hearsLanes s && drivesLane s && decide (Config.conflictRun ≤ s.lif.mismatch + 1) then mismatchReadback s else s)

/-- JOINING_COMPLETE (R19): the clean readback that brings the clean-run count to 64. -/
def execJoiningComplete (s : State) : Host.Outcome State Fault Refusal :=
  .next (if !s.resetPin && decide (s.stc.station = .joining) && decide (Config.joiningRun ≤ s.lif.cleanRun + 1) then
      cleanReadback s
    else s)

/-- END_OF_LISTENING (R25): at the 128th Listening frame the own-index record is read as it stands. -/
def execEndOfListening (s : State) : Host.Outcome State Fault Refusal :=
  .next (if !s.resetPin && listeningDone s then decideListening s else s)

/-- WINDOW_END (R175): the window count, one short of 2048, reaches it. -/
def execWindowEnd (s : State) : Host.Outcome State Fault Refusal :=
  .next (if !s.resetPin && decide (s.stc.station = .contributing) &&
      decide (Config.windowFrames ≤ s.mtu.windowCount + 1) then endWindow s else s)

/-- The named ramp applies its pending set where that is due (R117, R123). -/
def applyRamp (ramp : RampId) (s : State) : State :=
  match ramp with
  | .channel c => if applicationDue (pathAt s c).ramp then setPath s c (stepPath (pathAt s c)) else s
  | .slot o =>
    if applicationDue (s.mxd.slots.get o).ramp then
      s.setMxd { s.mxd with slots := s.mxd.slots.put o (stepSlot (s.mxd.slots.get o)) }
    else s

/-- PENDING_SET_APPLICATION (R117): in the states in which ramps step (R116). DESIGN CHOICE: the reference is not looked at, so a
Silent station takes it while its reference is Lost too, where the ramps stand still by themselves (R124,
notes/assumptions/20.md). -/
def execPendingSetApplication (ramp : RampId) (s : State) : Host.Outcome State Fault Refusal :=
  .next (if hearsLanes s then applyRamp ramp s else s)

/-- The lane's open set is at its close: its last member is about to be counted, or it holds 16 (R157, R158). -/
def closeDue (lane : LaneIx) (s : State) : Bool :=
  let col := collectionAt s lane
  decide (0 < col.remaining) && (decide (col.remaining = 1) || decide (Config.heldCapacity ≤ col.held.length))

/-- SET_CLOSE (R159). -/
def execSetClose (lane : LaneIx) (s : State) : Host.Outcome State Fault Refusal :=
  .next (if !s.resetPin && takesChanges s && closeDue lane s then closeSet lane s else s)

end Sys2Proof.Machine
end

