-- ==== Sys2Proof/Machine/Frame.lean ====
section
/-! DEFINITION. A strobe and the frame it opens (R1, R6 to R9, R28, R64, R65, R116, R121, R125 to R127, R153, R166, R174).
The order of the parts of one strobe, where the spec leaves it open, is notes/assumptions/11.md. -/

namespace Sys2Proof.Machine

/-! ### Changes and ramps -/

/-- The Change Scheduler at a strobe (R166, R168): the flush a Locate requires, then the applications. -/
def changesAtStrobe (e : StrobeEvent) (s : State) : State :=
  let t := if flushes e then flushQueue s else s
  if takesChanges t then applyDueChanges t else t

/-- The ramps at a strobe: the join fade-in at the entry to Contributing (R121), else one step (R116). -/
def rampsAtStrobe (entering : Bool) (s : State) : State :=
  if entering then joinFadeIn s else stepRamps s

/-! ### The frame a strobe opens -/

/-- The frame's own-lane record: it is received, with the lane driven in it; the own frame count advances with each frame
driven (R7). -/
def openFrame (driven : Option (Table 54 Word)) (s : State) : State :=
  s.setLif { s.lif with
    receiving := true
    driven := driven
    ownFrame := if driven.isSome then s.lif.ownFrame + 1 else s.lif.ownFrame }

/-- A frame that is not driven: its totals begin at 0 (R125, R126). -/
def openUndriven (s : State) : State :=
  openFrame none (openTotals (fun _ => 0) s)

/-- A Joining frame: header, zero bus words, idle slots (R8). -/
def openJoining (h0 h1 h2 : Word) (s : State) : State :=
  openFrame (some (composeLane h0 h1 h2 (Table.fill 48 0) 0 0)) (openTotals (fun _ => 0) s)

/-- The lane words of a Contributing frame at the blocks: Clip occurrences, and the own words in the totals (R73, R125). -/
def ownWordsEnter (s : State) : State :=
  openTotals (fun b => ((laneWords s).get b).toInt) (raiseIf (laneClips s) .clip s)

/-- A Contributing frame (R9): lane words, meter samples, the two slots the arbiter fills, and the lane as a whole. -/
def openContributing (h0 h1 h2 : Word) (s : State) : State :=
  let slot0 := fillSlot (meterFrame (ownWordsEnter s))
  let slot1 := fillSlot slot0.2
  openFrame (some (composeLane h0 h1 h2 (laneWords s) slot0.1 slot1.1)) slot1.2

/-- The frame is opened as the station state in force drives it (R6). The header's fields are `before`'s: the values held
before any change taken at the strobe (R7). -/
def openByStation (before : State) (s : State) : State :=
  let header (code : Nat) (i : Fin 3) : Word := (composeHeader before code).getD i.val 0
  match s.stc.station with
  | .joining => openJoining (header 1 0) (header 1 1) (header 1 2) s
  | .contributing => openContributing (header 2 0) (header 2 1) (header 2 2) s
  | .listening => openUndriven s
  | .silent => openUndriven s
  | .booting => s
  | .isolated => s

/-! ### The strobe -/

/-- A strobe in Booting opens a frame that is not received (R21, R22). -/
def strobeInBooting (e : StrobeEvent) (s : State) : State :=
  let t := if flushes e then flushQueue s else s
  t.setLif { t.lif with receiving := false, driven := none }

/-- The coefficients, ramps and histories of the frame (R64, R65, R116, R130). -/
def formFrame (entering : Bool) (inputs : Table 48 Sample) (s : State) : State :=
  enterSamples inputs (formCoefficients (rampsAtStrobe entering s))

/-- The station enters Contributing at this strobe (R27). -/
def entersContributing (s : State) : Bool :=
  decide (s.stc.station = .joining) && s.stc.joiningComplete

/-- A strobe is taken (R28): the Reference Receiver, the station, the close of the frame before, the changes, the ramps,
coefficients and histories, and the frame it opens. -/
def strobeTaken (p : Position) (inputs : Table 48 Sample) (s : State) : State :=
  let e := classify s.rfr p
  let r := takeStrobe p s
  if r.stc.station = .booting then strobeInBooting e r
  else
    openByStation s
      (formFrame (entersContributing s) inputs (changesAtStrobe e (closeFrame (stationAtStrobe r))))

end Sys2Proof.Machine
end

