-- ==== Sys2Proof/Machine/LifeCommands.lean ====
section
/-! DEFINITION. The meanings of the commands of power, reset, boot, reference line, lanes and input ports. -/

namespace Sys2Proof.Machine

/-- POWER_ON (R33). -/
def execPowerOn (straps : BitVec 4) (s : State) : Host.Outcome State Fault Refusal :=
  .next (powerOnReset straps s)

/-- RESET_PIN_ASSERTED (R33). -/
def execResetPinAsserted (s : State) : Host.Outcome State Fault Refusal :=
  .next (pinAsserted s)

/-- PIN_RESET (R33): the release of the pin. -/
def execPinReset (straps : BitVec 4) (s : State) : Host.Outcome State Fault Refusal :=
  .next (pinResetTaken straps s)

/-- BOOT_READ_COMPLETE (R22, R23): the boot read runs in Booting alone. -/
def execBootReadComplete (record : Table 22 Byte) (s : State) : Host.Outcome State Fault Refusal :=
  .next (if s.stc.station = .booting then
      bootReadEnds (if recordPasses record then some (recordSettings record) else none) s
    else s)

/-- BOOT_READ_NO_ANSWER (R22). -/
def execBootReadNoAnswer (s : State) : Host.Outcome State Fault Refusal :=
  .next (if s.stc.station = .booting then bootReadEnds none s else s)

/-- STROBE (R28): none is taken while the reset pin is asserted (R33). -/
def execStrobe (position : Position) (inputs : Table 48 Sample) (s : State) : Host.Outcome State Fault Refusal :=
  .next (if s.resetPin then s else strobeTaken position inputs s)

/-- LOSS (R29): the timer expires only while it runs and the reference is Running. -/
def execLoss (s : State) : Host.Outcome State Fault Refusal :=
  .next (if s.rfr.timer = .running ∧ s.rfr.reference = .running then lossTaken s else s)

/-- LANE_ARRIVAL (R2): taken in the states that take arrivals, in a frame that is received. -/
def execLaneArrival (lane : LaneIx) (rx : Reception) (straps : BitVec 4) (s : State) : Host.Outcome State Fault Refusal :=
  .next (if hearsLanes s && s.lif.receiving then laneArrives lane rx straps s else s)

/-- LOCK_GAINED (R52). -/
def execLockGained (port : PortIx) (s : State) : Host.Outcome State Fault Refusal :=
  .next (setLock port true s)

/-- LOCK_LOST (R52): the loss is reported as InputFault. -/
def execLockLost (port : PortIx) (s : State) : Host.Outcome State Fault Refusal :=
  .next (raise .inputFault (setLock port false s))

end Sys2Proof.Machine
end

