-- ==== Sys2Proof/Machine/Dispatch.lean ====
section
/-! DEFINITION. One arm for each command. -/

namespace Sys2Proof.Machine

def exec (i : Instr) (s : State) : Host.Outcome State Fault Refusal :=
  match i with
  | .powerOn straps => Sys2Proof.Machine.execPowerOn straps s
  | .resetPinAsserted => Sys2Proof.Machine.execResetPinAsserted s
  | .pinReset straps => Sys2Proof.Machine.execPinReset straps s
  | .stationReset dest straps => Sys2Proof.Machine.execStationReset dest straps s
  | .bootReadComplete record => Sys2Proof.Machine.execBootReadComplete record s
  | .bootReadNoAnswer => Sys2Proof.Machine.execBootReadNoAnswer s
  | .strobe position inputs => Sys2Proof.Machine.execStrobe position inputs s
  | .loss => Sys2Proof.Machine.execLoss s
  | .laneArrival lane rx straps => Sys2Proof.Machine.execLaneArrival lane rx straps s
  | .lockGained port => Sys2Proof.Machine.execLockGained port s
  | .lockLost port => Sys2Proof.Machine.execLockLost port s
  | .stripSet lane strip param value stamp => Sys2Proof.Machine.execStripSet lane strip param value stamp s
  | .stripQuery lane strip param => Sys2Proof.Machine.execStripQuery lane strip param s
  | .groupLevel lane groupFlags master stamp => Sys2Proof.Machine.execGroupLevel lane groupFlags master stamp s
  | .bind lane count => Sys2Proof.Machine.execBind lane count s
  | .watch strip => Sys2Proof.Machine.execWatch strip s
  | .unwatch strip => Sys2Proof.Machine.execUnwatch strip s
  | .rearm strip => Sys2Proof.Machine.execRearm strip s
  | .clearConditions dest mask => Sys2Proof.Machine.execClearConditions dest mask s
  | .rollCall dest => Sys2Proof.Machine.execRollCall dest s
  | .laneLost lane => Sys2Proof.Machine.execLaneLost lane s
  | .laneConflict => Sys2Proof.Machine.execLaneConflict s
  | .joiningComplete => Sys2Proof.Machine.execJoiningComplete s
  | .endOfListening => Sys2Proof.Machine.execEndOfListening s
  | .windowEnd => Sys2Proof.Machine.execWindowEnd s
  | .pendingSetApplication ramp => Sys2Proof.Machine.execPendingSetApplication ramp s
  | .setClose lane => Sys2Proof.Machine.execSetClose lane s

end Sys2Proof.Machine
end

