-- ==== Sys2Proof/Safety.lean ====
section
/-! DEFINITION. What a sound state of the engine is, and the terms the statements are written in: the invariants of the ten
blocks, the moves of the station, the placing of a change. -/

namespace Sys2Proof.Machine

/-! ### The station -/

/-- The moves of the station state that each command may bring (the table after R27), beside staying where it is. A
LANE_ARRIVAL may carry any of the events of an arrival, and a LANE_LOST of the Watched own-index record in the 128th Listening
frame leaves that record Absent and so ends in Joining. -/
def moveListed (c : Instr) (a b : StationState) : Bool :=
  match c with
  | .powerOn _ => decide (b = .booting)
  | .resetPinAsserted => false
  | .pinReset _ => decide (b = .booting)
  | .stationReset _ _ => decide (a ≠ .booting) && decide (a ≠ .isolated) && decide (b = .booting)
  | .bootReadComplete _ => decide (a = .booting) && decide (b = .listening)
  | .bootReadNoAnswer => decide (a = .booting) && decide (b = .listening)
  | .strobe _ _ =>
    decide (a = .isolated) && decide (b = .listening) || decide (a = .joining) && decide (b = .contributing)
  | .loss => (decide (a = .listening) || decide (a = .joining) || decide (a = .contributing)) && decide (b = .isolated)
  | .laneArrival _ _ _ =>
    decide (a ≠ .booting) && decide (a ≠ .isolated) && decide (b = .booting) ||
      decide (a = .listening) && (decide (b = .joining) || decide (b = .silent)) ||
      (decide (a = .joining) || decide (a = .contributing)) && decide (b = .silent)
  | .lockGained _ => false
  | .lockLost _ => false
  | .stripSet _ _ _ _ _ => false
  | .stripQuery _ _ _ => false
  | .groupLevel _ _ _ _ => false
  | .bind _ _ => false
  | .watch _ => false
  | .unwatch _ => false
  | .rearm _ => false
  | .clearConditions _ _ => false
  | .rollCall _ => false
  | .laneLost _ => decide (a = .listening) && decide (b = .joining)
  | .laneConflict => (decide (a = .joining) || decide (a = .contributing)) && decide (b = .silent)
  | .joiningComplete => false
  | .endOfListening => decide (a = .listening) && (decide (b = .joining) || decide (b = .silent))
  | .windowEnd => false
  | .pendingSetApplication _ => false
  | .setClose _ => false

/-- The reference state and the strobe timer agree with the station (R28, R29, R31, R32). -/
def ReferenceOk (s : State) : Prop :=
  (s.rfr.reference = .lost → s.rfr.timer = .stopped ∧ s.rfr.known = false) ∧
  match s.stc.station with
  | .booting => s.rfr.reference = .running ∧ s.rfr.timer = .stopped
  | .listening => s.rfr.reference = .running ∧ s.rfr.timer = .running
  | .joining => s.rfr.reference = .running ∧ s.rfr.timer = .running
  | .contributing => s.rfr.reference = .running ∧ s.rfr.timer = .running
  | .silent => s.rfr.reference = .running → s.rfr.timer = .running
  | .isolated => s.rfr.reference = .lost

/-! ### The Lane Table (R10 to R20, R94) -/

/-- The counts of a lane record that each presence state has (R10, R12 to R14). -/
def countsOk (r : LaneRecord) : Prop :=
  match r.presence with
  | .absent => r.validRun = 0 ∧ r.invalidRun = 0
  | .joining => 1 ≤ r.validRun ∧ r.validRun ≤ 16 ∧ r.invalidRun = 0
  | .present => r.validRun = 16 ∧ r.invalidRun < 16

/-- The own-index record's mode agrees with the station (R11). -/
def ownModeOk (s : State) : Prop :=
  match s.stc.station with
  | .booting => s.lif.ownMode = .watched
  | .listening => s.lif.ownMode = .watched
  | .joining => s.lif.ownMode = .own
  | .contributing => s.lif.ownMode = .own
  | .silent => True
  | .isolated => True

/-- The Lane Table is sound: each record's counts, no needs and no scope bits but in Present peer records (R94), the
own-index record's mode, the readback counts, Joining complete reported in Joining alone (R19). -/
def LaneTableOk (s : State) : Prop :=
  (∀ n, countsOk (laneAt s n)) ∧
  (∀ n, (laneAt s n).presence ≠ .present ∨ n = s.stc.nodeId →
    (laneAt s n).scopes = Table.fill 8 false ∧ (laneAt s n).needs = Table.fill 48 none) ∧
  ownModeOk s ∧ s.lif.mismatch ≤ 4 ∧ s.lif.cleanRun ≤ 64 ∧
  (s.stc.joiningComplete = true → s.stc.station = .joining)

/-! ### The Change Scheduler (R155 to R164) -/

/-- The queue is in non-decreasing order of target and holds at most 64 entries (R163); a collection counts 0..4, holds at
most 16 changes, holds none before its stamp is fixed, and is empty while no set is open (R155, R158). -/
def SchedulerOk (s : State) : Prop :=
  s.chs.queue.Pairwise (fun e f => e.target.toNat ≤ f.target.toNat) ∧ s.chs.queue.length ≤ 64 ∧
  ∀ n, (collectionAt s n).remaining ≤ 4 ∧ (collectionAt s n).held.length ≤ 16 ∧
    ((collectionAt s n).stamp = .undetermined → (collectionAt s n).held = []) ∧
    ((collectionAt s n).remaining = 0 → collectionAt s n = { remaining := 0, held := [], stamp := .undetermined })

/-- A unit of changes is placed under a stamp (R161, R164, R165): at the end of the Due List without a stamp or at or below
the current position; above it, as one run in the queue behind every entry at or below the stamp and before the first above
it; where it does not fit, in the Due List with QueueDegraded. -/
def PlacedAs (cs : List LaneChange) (stamp : Option Position) (s t : State) : Prop :=
  match stamp with
  | none => t = s.setChs { s.chs with due := s.chs.due ++ cs }
  | some p =>
    if p.toNat ≤ s.rfr.position.toNat then t = s.setChs { s.chs with due := s.chs.due ++ cs }
    else if s.chs.queue.length + cs.length ≤ 64 then
      ∃ front back, s.chs.queue = front ++ back ∧ (∀ e ∈ front, e.target.toNat ≤ p.toNat) ∧
        (∀ e, back.head? = some e → p.toNat < e.target.toNat) ∧
        t = s.setChs { s.chs with queue := front ++ cs.map (fun c => { target := p, change := c }) ++ back }
    else t = raise .queueDegraded (s.setChs { s.chs with due := s.chs.due ++ cs })

/-- A command that brings a change this engine acts on (R144): a STRIP_SET of a strip in range, or a GROUP_LEVEL. -/
def Delivers (s : State) (lane : LaneIx) (stamp : Option Position) (m : Instr) (change : Change) : Prop :=
  (∃ (strip param : BitVec 16) (w : Word) (c : Chan), strip.toNat = s.stc.stripBase + c.val ∧
    m = .stripSet lane strip param w stamp ∧ change = .strip c param w) ∨
  ∃ gf v : Word, m = .groupLevel lane gf v stamp ∧ change = .group gf v

/-! ### Solo (R80, R81, R83, R86) -/

/-- A channel is soloed: its Solo is on, or that of a group of its list (R80). -/
def Soloed (s : State) (c : Chan) : Prop :=
  (channelAt s c).solo = true ∨ ∃ g ∈ (channelAt s c).groups, (s.gsu.groups.get g).solo = true

/-- The own scope bits, the link scope state and the solo gating are those the tables and the Present peer lanes give. -/
def SoloOk (s : State) : Prop :=
  (∀ sc, s.gsu.ownScopes.get sc = true ↔ ∃ c, (channelAt s c).scope = sc ∧ Soloed s c) ∧
  (∀ sc, s.gsu.linkScopes.get sc = true ↔ s.gsu.ownScopes.get sc = true ∨
    ∃ n, n ≠ s.stc.nodeId ∧ (laneAt s n).presence = .present ∧ (laneAt s n).scopes.get sc = true) ∧
  (∀ c, s.gsu.gated.get c = true ↔ s.gsu.linkScopes.get (channelAt s c).scope = true ∧ ¬ Soloed s c ∧
    (channelAt s c).soloSafe = false)

/-! ### Depth Alignment (R92 to R103) -/

/-- A Normal channel with depth d that has a send to bus b (R93). -/
def SendsAtDepth (s : State) (b : Bus) (d : Depth) : Prop :=
  ∃ c k, alignAt s c = .normal d ∧ ((channelAt s c).sends.get k).bus = some b

/-- A need of d for bus b that takes part in the aligned depth: the own one or a Present peer lane's (R95). -/
def NeedHeard (s : State) (b : Bus) (d : Depth) : Prop :=
  s.alu.ownNeeds.get b = some d ∨
  ∃ n, n ≠ s.stc.nodeId ∧ (laneAt s n).presence = .present ∧ (laneAt s n).needs.get b = some d

/-- The depth of channel c, or its latch, as R92 gives it. -/
def ChannelDepthOk (s : State) (c : Chan) : Prop :=
  match (channelAt s c).source with
  | .input _ => alignAt s c = .normal 0
  | .none => alignAt s c = .normal 0
  | .busReturn b => alignAt s c = .overdepth ∨ ∃ d : Depth, alignAt s c = .normal d ∧ d.val = (s.alu.aligned.get b).val + 1

/-- The alignment state is settled (R92, R93, R95, R97): each channel's depth is its source's, each own need the largest depth
of a Normal channel sending to the bus, each aligned depth the largest need heard, 0 where there is none. -/
def AlignmentOk (s : State) : Prop :=
  (∀ c, ChannelDepthOk s c) ∧
  (∀ b, (∀ d, s.alu.ownNeeds.get b = some d → SendsAtDepth s b d) ∧
    ∀ d, SendsAtDepth s b d → ∃ e, s.alu.ownNeeds.get b = some e ∧ d ≤ e) ∧
  (∀ b, (∀ d, NeedHeard s b d → d ≤ s.alu.aligned.get b) ∧
    (NeedHeard s b (s.alu.aligned.get b) ∨ s.alu.aligned.get b = 0 ∧ ∀ d, ¬ NeedHeard s b d))

/-- The delay each send and each assigned slot would have once its pending set were applied is its target (R101 to R103):
0 for an unassigned send, D_b − d for a Normal channel's send to bus b, 14 − D_b for a slot. -/
def DelaysOk (s : State) : Prop :=
  (∀ c k, ((channelAt s c).sends.get k).bus = none → effectiveDelay (pathAt s c) k = 0) ∧
  (∀ c k b d, ((channelAt s c).sends.get k).bus = some b → alignAt s c = .normal d →
    (effectiveDelay (pathAt s c) k).val + d.val = (s.alu.aligned.get b).val) ∧
  (∀ o b, (s.mxd.slots.get o).bus = some b →
    (effectiveSlotDelay (s.mxd.slots.get o)).val + (s.alu.aligned.get b).val = 14)

/-! ### Switch ramps (R113) -/

/-- The switch factor that each ramp state has between steps (R113, R116). -/
def rampOk (r : Ramp) : Prop :=
  match r.state with
  | .steady => r.k = 32
  | .rampOut => r.k ≤ 32
  | .rampIn => 1 ≤ r.k ∧ r.k ≤ 32
  | .held => r.k = 0

/-- A Steady ramp or one in In has nothing pending (R113, R117, R119). -/
def quiet (r : Ramp) : Prop :=
  r.state = .steady ∨ r.state = .rampIn

/-- Every ramp's factor agrees with its state, and only ramps in Out or Held have items pending. -/
def RampsOk (s : State) : Prop :=
  (∀ c, rampOk (pathAt s c).ramp ∧ (quiet (pathAt s c).ramp → (pathAt s c).pending = PendingSet.empty)) ∧
  ∀ o, rampOk (s.mxd.slots.get o).ramp ∧ (quiet (s.mxd.slots.get o).ramp → (s.mxd.slots.get o).pending = none)

/-! ### Transmit classes (R152) -/

/-- Classes 1, 2 and 3 hold at most eight messages each, the one in progress among them, and a message in progress has words
left to drive (R152, R153). -/
def TransmitOk (s : State) : Prop :=
  s.mse.notices.length + inProgressCount s.mse .notice ≤ 8 ∧
  s.mse.stripAnswers.length + inProgressCount s.mse .stripAnswer ≤ 8 ∧
  s.mse.meterAnswers.length + inProgressCount s.mse .meterAnswer ≤ 8 ∧
  ∀ p, s.mse.inProgress = some p → p.rest ≠ []

/-! ### Meters (R171) -/

/-- The Meter Watch Table is sound (R171): an Occupied entry's channel is its strip less the strip base, no two entries hold
one strip, a set mark stands for an answer that waits, the table is empty in Booting, the window count is below 2048. -/
def MetersOk (s : State) : Prop :=
  (∀ e w, s.mtu.entries.get e = some w → w.strip.toNat = s.stc.stripBase + w.channel.val) ∧
  (∀ e f w x, s.mtu.entries.get e = some w → s.mtu.entries.get f = some x → w.strip = x.strip → e = f) ∧
  (∀ e w, s.mtu.entries.get e = some w → w.waiting = true → ∃ a ∈ s.mse.meterAnswers, a.strip = w.strip) ∧
  (s.stc.station = .booting → ∀ e, s.mtu.entries.get e = none) ∧ s.mtu.windowCount < 2048

end Sys2Proof.Machine
end

