-- ==== Sys2Proof/Certificates/Slice0/Obligations.lean ====
section
/-! DEFINITION. The statements for the provers. Each formalises the rules its entry of OBLIGATIONS.json cites. -/

open Sys2Proof Sys2Proof.Machine

/-! ### The queue of commands -/

/-- A step executes the command at the front of the queue with the queue's rest. -/
def Obligations.StepRunsFrontCommand : Prop :=
  ∀ (c : Instr) (rest : List Instr) (s : State), s.pending = c :: rest → step s = exec c (s.setPending rest)

/-- Every command completes in every state and leaves the queue as it stands (notes/assumptions/5.md), and on an empty queue the
block idles (notes/assumptions/2.md): both are the model's choice. -/
def Obligations.CommandsCompleteAndQueueIdles : Prop :=
  (∀ (c : Instr) (s : State), ∃ t, exec c s = .next t ∧ t.pending = s.pending) ∧
  ∀ s : State, s.pending = [] → step s = .next s

/-! ### Resets and the boot record -/

/-- After a power-on every block holds its power-on values (R33, R34, R35, R10, R28, R38, R75, R110, R122, R135, R155,
R171). That the reset pin stands released after it is the model's choice (notes/assumptions/7.md). -/
def Obligations.PowerOnGivesPowerOnValues : Prop :=
  ∀ (straps : BitVec 4) (s : State), ∃ t, exec (.powerOn straps) s = .next t ∧
    (t.stc.station = .booting ∧ t.stc.nodeId.val = straps.toNat ∧ t.stc.resetCause = .powerOn ∧
      t.stc.stop = { cause := .none, position := 0, left := .none } ∧ t.stc.conditions = 0 ∧ t.stc.boot.noticeMask = 0 ∧
      t.stc.listeningCount = 0) ∧
    (∀ n, laneAt t n =
      { presence := .absent, validRun := 0, invalidRun := 0, scopes := Table.fill 8 false, needs := Table.fill 48 none }) ∧
    (t.lif.ownMode = .watched ∧ t.lif.mismatch = 0 ∧ t.lif.cleanRun = 0 ∧ t.lif.ownFrame = 0) ∧
    t.rfr = { position := 0, known := false, reference := .running, timer := .stopped } ∧
    ((∀ n, reassemblyAt t n = .idle) ∧ t.mse.announceWaiting = false ∧ t.mse.notices = [] ∧ t.mse.stripAnswers = [] ∧
      t.mse.meterAnswers = [] ∧ t.mse.inProgress = none) ∧
    ((∀ n, collectionAt t n = { remaining := 0, held := [], stamp := .undetermined }) ∧ t.chs.queue = [] ∧ t.chs.due = []) ∧
    (∀ c, channelAt t c =
      { source := .input c, trim := 0, fader := -480, mute := false, solo := false, soloSafe := false, scope := 0
        groups := [], sends := Table.fill 8 { bus := none, level := -480, on := false, invert := false } }) ∧
    ((∀ g, t.gsu.groups.get g = { master := 0, mute := false, solo := false }) ∧ (∀ sc, t.gsu.ownScopes.get sc = false) ∧
      (∀ sc, t.gsu.linkScopes.get sc = false) ∧ ∀ c, t.gsu.gated.get c = false) ∧
    ((∀ c, alignAt t c = .normal 0) ∧ (∀ b, t.alu.ownNeeds.get b = none) ∧ ∀ b, t.alu.aligned.get b = 0) ∧
    (∀ c, pathAt t c =
      { history := Table.fill 15 0, source := .input c
        sends := Table.fill 8 { bus := none, delay := 0, coef := 0, glide := .holding }
        ramp := { state := .held, k := 0 }
        pending := { source := none, buses := Table.fill 8 none, delays := Table.fill 8 none }
        meterCoef := 0 }) ∧
    ((∀ b, t.mxd.busHistory.get b = Table.fill 15 0) ∧ t.mxd.totals = none ∧ (∀ o, t.mxd.outputs.get o = 0) ∧
      ∀ p, t.mxd.locks.get p = false) ∧
    ((∀ e, t.mtu.entries.get e = none) ∧ t.mtu.pointer = 0 ∧ t.mtu.windowCount = 0) ∧ t.resetPin = false

/-- A pin reset is taken as the pin is released, and leaves what a power-on leaves, with cause ResetPin, the Stop Record kept,
and the assigned output slots Held at delay 14 (R33, R110). That the strip base, the boot record copy and the slot assignments
stand until they are taken anew, and that the release is taken where no assertion was seen too, is the model's choice
(notes/assumptions/8.md and 7.md). -/
def Obligations.PinResetKeepsStopRecord : Prop :=
  ∀ (straps : BitVec 4) (s : State), ∃ t u, exec (.pinReset straps) s = .next t ∧ exec (.powerOn straps) s = .next u ∧
    t.stc = { u.stc with
      resetCause := .resetPin, stop := s.stc.stop, stripBase := s.stc.stripBase,
      boot := { s.stc.boot with noticeMask := 0 } } ∧
    t.lif = u.lif ∧ t.rfr = u.rfr ∧ t.mse = u.mse ∧ t.chs = u.chs ∧ t.sst = u.sst ∧ t.gsu = u.gsu ∧ t.alu = u.alu ∧
    t.mtu = u.mtu ∧ t.mxd = { u.mxd with slots := t.mxd.slots } ∧ t.resetPin = false ∧
    ∀ o, (t.mxd.slots.get o).bus = (s.mxd.slots.get o).bus ∧ (t.mxd.slots.get o).ramp = { state := .held, k := 0 } ∧
      (t.mxd.slots.get o).pending = none ∧ ((s.mxd.slots.get o).bus ≠ none → (t.mxd.slots.get o).delay = 14)

/-- While the reset pin is asserted nothing is driven and nothing stands open, the outputs give 0 and the alert line is
deasserted (R33, R133); every other value stands, and no strobe and no arrival is taken, nor any message, which an arrival
would complete. -/
def Obligations.AssertedResetPinSilencesEngine : Prop :=
  (∀ s : State, ∃ t, exec .resetPinAsserted s = .next t ∧ alertLine t = false ∧
    t = { s with
      resetPin := true
      lif := { s.lif with receiving := false, driven := none }
      mxd := { s.mxd with totals := none, outputs := Table.fill 16 0 } }) ∧
  ∀ s : State, s.resetPin = true →
    (∀ p i, exec (.strobe p i) s = .next s) ∧ (∀ lane rx straps, exec (.laneArrival lane rx straps) s = .next s) ∧
    (∀ dest straps, exec (.stationReset dest straps) s = .next s) ∧
    (∀ lane strip param w p, exec (.stripSet lane strip param w p) s = .next s) ∧
    (∀ lane strip param, exec (.stripQuery lane strip param) s = .next s) ∧
    (∀ lane gf m p, exec (.groupLevel lane gf m p) s = .next s) ∧ (∀ lane n, exec (.bind lane n) s = .next s) ∧
    (∀ strip, exec (.watch strip) s = .next s ∧ exec (.unwatch strip) s = .next s ∧ exec (.rearm strip) s = .next s) ∧
    (∀ dest mask, exec (.clearConditions dest mask) s = .next s) ∧ ∀ dest, exec (.rollCall dest) s = .next s

/-- A Station Reset addressed to this station keeps the settings, the Group Table and the latches, and leaves every other
block as a power-on does; the lane driven in the frame in progress is driven whole (R6); the values in force come straight from
what is kept, a latched channel's delays as they would have been once its pending set were applied (R33, R39, R69, R101, R105,
R111, R122, R150). That the slot assignments stand until they are taken anew is the model's choice (notes/assumptions/8.md), and
that a latched channel's targets are read from its pending set as it stands is the model's deduction (15.md); that the Notice of
an Overdepth the settling latches carries position 0 is its choice (36.md). -/
def Obligations.StationResetKeepsSettings : Prop :=
  ∀ (dest : BitVec 5) (straps : BitVec 4) (s : State), s.resetPin = false →
    (s.stc.station = .listening ∨ s.stc.station = .joining ∨ s.stc.station = .contributing ∨ s.stc.station = .silent) →
    (dest.toNat = s.stc.nodeId.val ∨ dest.toNat = 31) →
    ∃ t u, exec (.stationReset dest straps) s = .next t ∧ exec (.powerOn straps) s = .next u ∧
      (t.stc.station = .booting ∧ t.stc.nodeId.val = straps.toNat ∧ t.stc.resetCause = .stationReset ∧
        t.stc.stop = s.stc.stop ∧ t.stc.boot.noticeMask = 0 ∧ t.stc.listeningCount = 0 ∧
        (t.stc.conditions = 0 ∨ t.stc.conditions = 4)) ∧
      t.lif = { u.lif with driven := s.lif.driven } ∧ t.rfr = u.rfr ∧ t.chs = u.chs ∧ t.mtu = u.mtu ∧
      t.mse = { u.mse with
        notices := if t.stc.conditions = 0 then [] else [{ condition := .overdepth, position := 0 }] } ∧
      t.sst = s.sst ∧ t.gsu.groups = s.gsu.groups ∧
      (∀ c, alignAt s c = .overdepth → alignAt t c = .overdepth) ∧
      (∀ c, (pathAt t c).history = Table.fill 15 0 ∧ (pathAt t c).source = (channelAt s c).source ∧
        (pathAt t c).ramp = { state := .held, k := 0 } ∧
        (pathAt t c).pending = { source := none, buses := Table.fill 8 none, delays := Table.fill 8 none } ∧
        (pathAt t c).meterCoef = meterTarget t c ∧
        ∀ k, ((pathAt t c).sends.get k).bus = ((channelAt s c).sends.get k).bus ∧
          ((pathAt t c).sends.get k).coef = sendTarget t c k ∧ ((pathAt t c).sends.get k).glide = .holding ∧
          (((channelAt s c).sends.get k).bus = none → ((pathAt t c).sends.get k).delay = 0) ∧
          ∀ b, ((channelAt s c).sends.get k).bus = some b →
            (alignAt t c = .overdepth → ((pathAt t c).sends.get k).delay =
              ((pathAt s c).pending.delays.get k).getD ((pathAt s c).sends.get k).delay) ∧
            ∀ d, alignAt t c = .normal d → ((pathAt t c).sends.get k).delay.val + d.val = (t.alu.aligned.get b).val) ∧
      t.mxd.busHistory = u.mxd.busHistory ∧ t.mxd.totals = none ∧ t.mxd.outputs = u.mxd.outputs ∧
      t.mxd.locks = u.mxd.locks ∧
      ∀ o, (t.mxd.slots.get o).ramp = { state := .held, k := 0 } ∧ (t.mxd.slots.get o).pending = none ∧
        (t.mxd.slots.get o).bus = (s.mxd.slots.get o).bus ∧
        ∀ b, (s.mxd.slots.get o).bus = some b → (t.mxd.slots.get o).delay.val + (t.alu.aligned.get b).val = 14

/-- The reset cause record (R34): each reset marks its own cause, nothing else changes the mark, and every Announce carries
it. STATION_RESET, and a LANE_ARRIVAL that carries a Station Reset, mark StationReset where the reset is taken, which is where
they bring the station into Booting, and leave the mark where it is not. -/
def Obligations.ResetCauseNamesLastReset : Prop :=
  (∀ straps s t, exec (.powerOn straps) s = .next t → t.stc.resetCause = .powerOn) ∧
  (∀ straps s t, exec (.pinReset straps) s = .next t → t.stc.resetCause = .resetPin) ∧
  (∀ dest straps s t, exec (.stationReset dest straps) s = .next t →
    t.stc.resetCause = if s.stc.station ≠ .booting ∧ t.stc.station = .booting then .stationReset
      else s.stc.resetCause) ∧
  (∀ lane rx straps s t, exec (.laneArrival lane rx straps) s = .next t →
    t.stc.resetCause = if s.stc.station ≠ .booting ∧ t.stc.station = .booting then .stationReset
      else s.stc.resetCause) ∧
  (∀ c s t, exec c s = .next t → (∀ straps, c ≠ .powerOn straps) → (∀ straps, c ≠ .pinReset straps) →
    (∀ dest straps, c ≠ .stationReset dest straps) → (∀ lane rx straps, c ≠ .laneArrival lane rx straps) →
    t.stc.resetCause = s.stc.resetCause) ∧
  ∀ s, ((announceWords s)[1]?).map (fun w => field w 8 4) = some (match s.stc.resetCause with
    | .powerOn => 1
    | .resetPin => 2
    | .stationReset => 3)

/-- The Stop Record (R35): it is written whole at each entry to Silent or Isolated, with the current position and the state
left, cleared by a power-on, and else kept; every Announce carries it. -/
def Obligations.StopRecordWrittenAtStops : Prop :=
  (∀ s : State, (announceWords s)[3]? = some s.stc.stop.position ∧
    ((announceWords s)[2]?).map (fun w => (field w 24 8, field w 16 8)) = some
      (match s.stc.stop.cause with
        | .none => 0
        | .nodeInUse => 1
        | .laneConflict => 2
        | .referenceLoss => 3,
      match s.stc.stop.left with
        | .none => 0
        | .listening => 1
        | .joining => 2
        | .contributing => 3)) ∧
  (stateLeftOf .listening = .listening ∧ stateLeftOf .joining = .joining ∧ stateLeftOf .contributing = .contributing) ∧
  ∀ c s t, exec c s = .next t →
    (t.stc.station = .isolated ∧ s.stc.station ≠ .isolated →
      t.stc.stop = { cause := .referenceLoss, position := s.rfr.position, left := stateLeftOf s.stc.station }) ∧
    (t.stc.station = .silent ∧ s.stc.station = .listening →
      t.stc.stop = { cause := .nodeInUse, position := s.rfr.position, left := .listening }) ∧
    (t.stc.station = .silent ∧ (s.stc.station = .joining ∨ s.stc.station = .contributing) →
      t.stc.stop = { cause := .laneConflict, position := s.rfr.position, left := stateLeftOf s.stc.station }) ∧
    ((∃ straps, c = .powerOn straps) → t.stc.stop = { cause := .none, position := 0, left := .none }) ∧
    ((∀ straps, c ≠ .powerOn straps) → (t.stc.station = .isolated ∨ t.stc.station = .silent → t.stc.station = s.stc.station) →
      t.stc.stop = s.stc.stop)

/-- The boot read ends (R22, R23, R24, R29, R124): with a record that passes, its settings are taken; with one that fails, or
with no answer, the defaults are taken (the forced base, which is then not used, held as 0: notes/assumptions/8.md) and then
BootFault is raised. The station enters Listening with the strobe timer
started, and the slots are set from the assignments with their delays 14 − D_b. That the end of a boot read is taken under an
asserted reset pin too, and that an unassigned slot holds delay 0, is the model's choice (notes/assumptions/7.md and 8.md). -/
def Obligations.BootReadEndsInListening : Prop :=
  ∀ (record : Table 22 Byte) (s : State), s.stc.station = .booting →
    ∃ t u, exec (.bootReadComplete record) s = .next t ∧ exec .bootReadNoAnswer s = .next u ∧
      (((record.get 0).toNat = 0x4D ∧ (record.cells.map BitVec.toNat).sum % 256 = 0) →
        t = { s with
          stc := { s.stc with
            station := .listening, listeningCount := 0
            boot :=
              { force := (record.get 1).getLsbD 0, forcedBase := record.get 2 ++ record.get 3, noticeMask := record.get 4, slots := t.stc.boot.slots }
            stripBase := if (record.get 1).getLsbD 0 then min ((record.get 2).toNat * 256 + (record.get 3).toNat) 720
              else s.stc.nodeId.val * 48 }
          rfr := { s.rfr with timer := .running }
          mxd := { s.mxd with slots := t.mxd.slots } } ∧
        ∀ o : SlotIx, t.stc.boot.slots.get o = busOf (record.get ⟨5 + o.val, by omega⟩).toNat) ∧
      (¬ ((record.get 0).toNat = 0x4D ∧ (record.cells.map BitVec.toNat).sum % 256 = 0) → t = u) ∧
      u = { raise .bootFault { s with stc := { s.stc with boot := BootSettings.default } } with
          stc := { (raise .bootFault { s with stc := { s.stc with boot := BootSettings.default } }).stc with
            station := .listening, listeningCount := 0, stripBase := s.stc.nodeId.val * 48 }
          rfr := { s.rfr with timer := .running }
          mxd := { s.mxd with
            slots := Table.fill 16 { bus := none, delay := 0, ramp := { state := .held, k := 0 }, pending := none } } } ∧
      ∀ o, (t.mxd.slots.get o).bus = t.stc.boot.slots.get o ∧ (t.mxd.slots.get o).ramp = { state := .held, k := 0 } ∧
        (t.mxd.slots.get o).pending = none ∧
        ∀ b, t.stc.boot.slots.get o = some b → ((t.mxd.slots.get o).delay).val + (s.alu.aligned.get b).val = 14

/-! ### The reference line and the station -/

/-- A strobe's position becomes the current one and is known, the reference Running, the timer restarted outside Booting; the
Locate flag is set at a Locate and at no other strobe, and each strobe is one of the four events (R28). In Listening the strobe
adds 1 to the Listening frame count and the lane stays undriven (R6, R25). In Booting it moves the Reference Receiver, the Locate
condition with its Notice and the queue a Locate flushes, and nothing else: no frame is received, no total is opened and no
coefficient, history or ramp moves (R21, R65, R116, R125, R168). That the frame is not received is held as a mark of the model's
(notes/assumptions/30.md). -/
def Obligations.StrobeTakesPosition : Prop :=
  (∀ (r : Rfr) (p : Position),
    (classify r p = .advance ↔ r.known = true ∧ p.toNat = r.position.toNat + 1) ∧
    (classify r p = .park ↔ r.known = true ∧ p = r.position) ∧
    (classify r p = .locate ↔ r.known = true ∧ p.toNat ≠ r.position.toNat + 1 ∧ p ≠ r.position) ∧
    (classify r p = .silentLocate ↔ r.known = false)) ∧
  ∀ (p : Position) (inputs : Table 48 Sample) (s : State), s.resetPin = false →
    ∃ t, exec (.strobe p inputs) s = .next t ∧
      t.rfr =
        { position := p, known := true, reference := .running, timer := if s.stc.station = .booting then s.rfr.timer else .running } ∧
      t.stc.conditions.getLsbD 3 = (s.stc.conditions.getLsbD 3 || decide (classify s.rfr p = .locate)) ∧
      t.lif.receiving = decide (s.stc.station ≠ .booting) ∧
      (s.stc.station = .listening → s.stc.listeningCount < 128 → t.stc.station = .listening ∧
        t.stc.listeningCount = s.stc.listeningCount + 1 ∧ t.lif.driven = none) ∧
      (s.stc.station = .booting →
        let u := { s with
          rfr := { position := p, known := true, reference := .running, timer := s.rfr.timer }
          lif := { s.lif with receiving := false, driven := none }
          chs := { s.chs with
            queue := if classify s.rfr p = .advance ∨ classify s.rfr p = .park then s.chs.queue else [] } }
        t = if classify s.rfr p = .locate then raise .locate u else u)

/-- The strobe timer's expiry (R29, R31, R35, R127, R134): the reference is Lost, the position unknown but kept, the timer
stopped; from Listening, Joining or Contributing the station goes to Isolated with the Stop Record written. That a Silent
station's totals are discarded and its outputs give 0 as well, and that the expiry is taken under an asserted reset pin too, is
the model's choice (notes/assumptions/10.md and 7.md). -/
def Obligations.LossIsolatesStation : Prop :=
  ∀ s : State, s.rfr.timer = .running → s.rfr.reference = .running →
    ∃ t, exec .loss s = .next t ∧
      t = { s with
        rfr := { s.rfr with known := false, reference := .lost, timer := .stopped }
        lif := { s.lif with receiving := false, driven := none }
        mxd := { s.mxd with totals := none, outputs := Table.fill 16 0 }
        stc := t.stc } ∧
      (takesChanges s = true → t.stc = { s.stc with
        station := .isolated, joiningComplete := false
        stop := { cause := .referenceLoss, position := s.rfr.position, left := stateLeftOf s.stc.station } }) ∧
      (takesChanges s = false → t.stc = s.stc)

/-- Every step keeps the reference state and the strobe timer in agreement with the station (R28, R29, R31, R32). -/
def Obligations.StepKeepsReferenceOk : Prop :=
  ∀ s t : State, ReferenceOk s → step s = .next t → ReferenceOk t

/-- The station moves by the listed transitions alone, each by the command that brings its event (the table after R27). -/
def Obligations.StationMovesAreListed : Prop :=
  ∀ c s t, exec c s = .next t → t.stc.station = s.stc.station ∨ moveListed c s.stc.station t.stc.station = true

/-- The strobe that ends Isolated (R32): the station enters Listening at count 1; the Lane Table, the messages and the changes
are cleared, every ramp is Held at K = 0; the values in force and the pending items are kept, with the delay items of the
settling joining them, every coefficient takes one glide step and every history one sample (R53, R69, R74, R112, R122, R124);
the settings, the Group Table, the latches, the Meter Watch Table but for its marks, the Stop Record and the reset cause record
are kept, and no flag is cleared. Every Notice left was queued at this strobe: an Overdepth of the settling, then a Clip of a
close, in the order of the model's reading (notes/assumptions/11.md). -/
def Obligations.StrobeEndsIsolated : Prop :=
  ∀ (p : Position) (inputs : Table 48 Sample) (s : State), s.resetPin = false → s.stc.station = .isolated →
    ∃ t, exec (.strobe p inputs) s = .next t ∧ t.stc.station = .listening ∧ t.stc.listeningCount = 1 ∧
      t.stc.stop = s.stc.stop ∧ t.stc.resetCause = s.stc.resetCause ∧ t.stc.nodeId = s.stc.nodeId ∧
      t.stc.stripBase = s.stc.stripBase ∧ t.stc.boot = s.stc.boot ∧
      s.stc.conditions &&& t.stc.conditions = s.stc.conditions ∧
      (∀ n, laneAt t n = LaneRecord.cleared) ∧ t.lif.ownMode = .watched ∧
      (∀ n, reassemblyAt t n = .idle) ∧ t.mse.announceWaiting = false ∧
      t.mse.notices =
        (if s.stc.conditions.getLsbD 2 = false ∧ s.stc.boot.noticeMask.getLsbD 2 = false ∧ t.stc.conditions.getLsbD 2 = true then
          [{ condition := .overdepth, position := p }] else []) ++
        (if s.stc.conditions.getLsbD 0 = false ∧ s.stc.boot.noticeMask.getLsbD 0 = false ∧ t.stc.conditions.getLsbD 0 = true then
          [{ condition := .clip, position := p }] else []) ∧
      t.mse.stripAnswers = [] ∧ t.mse.meterAnswers = [] ∧ t.mse.inProgress = none ∧
      (∀ n, collectionAt t n = BindCollection.cleared) ∧ t.chs.queue = [] ∧ t.chs.due = [] ∧
      t.sst = s.sst ∧ t.gsu.groups = s.gsu.groups ∧ t.gsu.ownScopes = s.gsu.ownScopes ∧
      (∀ sc, t.gsu.linkScopes.get sc = s.gsu.ownScopes.get sc) ∧
      (∀ c, alignAt s c = .overdepth → alignAt t c = .overdepth) ∧
      (∀ c, (pathAt t c).ramp = { state := .held, k := 0 } ∧ (pathAt t c).source = (pathAt s c).source ∧
        (pathAt t c).pending.source = (pathAt s c).pending.source ∧
        (pathAt t c).pending.buses = (pathAt s c).pending.buses ∧
        (∀ k, (pathAt t c).pending.delays.get k =
          (if delayTarget t c k = effectiveDelay (pathAt s c) k then (pathAt s c).pending.delays.get k
          else some (delayTarget t c k)) ∧
          (alignAt t c = .overdepth → ((channelAt s c).sends.get k).bus ≠ none →
            (pathAt t c).pending.delays.get k = (pathAt s c).pending.delays.get k)) ∧
        (∀ k, (pathAt t c).sends.get k = glideStep ((pathAt s c).sends.get k) (sendTarget t c k)) ∧
        (pathAt t c).meterCoef = meterTarget t c ∧
        (pathAt t c).history.get 0 = sourceSample t inputs (pathAt s c).source ∧
        ∀ i : Fin 14, (pathAt t c).history.get i.succ = (pathAt s c).history.get i.castSucc) ∧
      (∀ o, let slot := s.mxd.slots.get o
        t.mxd.slots.get o = { slot with
          ramp := { state := .held, k := 0 }
          pending := match slot.bus with
            | none => slot.pending
            | some b => if slotTarget t b = effectiveSlotDelay slot then slot.pending else some (slotTarget t b) }) ∧
      (s.mxd.totals = none → t.mxd.busHistory = s.mxd.busHistory) ∧
      t.mtu.pointer = s.mtu.pointer ∧ t.mtu.windowCount = s.mtu.windowCount ∧
      ∀ e, t.mtu.entries.get e = (s.mtu.entries.get e).map fun w => { w with waiting := false }

/-- The strobe after Joining complete (R27, R53, R65, R74, R121, R124, R153, R174): the station enters Contributing; after the
changes applied there each pending item comes into force in its place, every ramp is In at K = 1 with nothing pending, every
history holds this frame's sample of the source in force alone, every coefficient takes its glide toward the target standing then
and the meter coefficient its target, the meter window counts 1, and where no message was in progress the frame's slots carry the
first two words of an Announce. -/
def Obligations.StrobeEntersContributing : Prop :=
  ∀ (p : Position) (inputs : Table 48 Sample) (s : State), s.resetPin = false → s.stc.station = .joining →
    s.stc.joiningComplete = true →
    let queue := if s.rfr.known = true ∧ (p = s.rfr.position ∨ p.toNat = s.rfr.position.toNat + 1) then s.chs.queue else []
    let changes := (queue.takeWhile fun e => decide (e.target.toNat ≤ p.toNat)).map (fun e => e.change) ++ s.chs.due
    let u := changes.foldl applyChange s
    ∃ t, exec (.strobe p inputs) s = .next t ∧ t.stc.station = .contributing ∧ t.stc.joiningComplete = false ∧
      t.sst = u.sst ∧ t.gsu = u.gsu ∧ t.alu = u.alu ∧
      (∀ c, (pathAt t c).ramp = { state := .rampIn, k := 1 } ∧ (pathAt t c).pending = PendingSet.empty ∧
        (pathAt t c).source = (pathAt u c).pending.source.getD (pathAt u c).source ∧
        (∀ k, (pathAt t c).sends.get k = glideStep
          { (pathAt u c).sends.get k with
            bus := ((pathAt u c).pending.buses.get k).getD ((pathAt u c).sends.get k).bus
            delay := ((pathAt u c).pending.delays.get k).getD ((pathAt u c).sends.get k).delay } (sendTarget t c k)) ∧
        (pathAt t c).meterCoef = meterTarget t c ∧
        (pathAt t c).history.get 0 = sourceSample t inputs (pathAt t c).source ∧
        ∀ i : Fin 15, i ≠ 0 → (pathAt t c).history.get i = 0) ∧
      (∀ o, t.mxd.slots.get o =
        { bus := (u.mxd.slots.get o).bus
          delay := (u.mxd.slots.get o).pending.getD (u.mxd.slots.get o).delay
          ramp := { state := .rampIn, k := 1 }
          pending := none }) ∧
      t.mtu.windowCount = 1 ∧
      (s.mse.inProgress = none → ∃ ws, t.lif.driven = some ws ∧ ws.get 51 = 0x83F80000 ∧
        field (ws.get 52) 12 4 = s.stc.nodeId.val ∧ field (ws.get 52) 0 8 = 1 ∧ field (ws.get 0) 18 2 = 2)

/-! ### The Stage Link -/

/-- A lane is valid under exactly the conditions of R5, with the check value of R4 (the ones' complement of the end-around sum of
the 106 half-words of words 0 to 52), and an invalid lane is to the engine what an undriven one is. -/
def Obligations.LaneValidityIsR5 : Prop :=
  (∀ ws : Table 54 Word, checkValue ws.cells = 0xFFFF -
    ((ws.cells.take 53).flatMap fun w => [field w 16 16, field w 0 16]).foldl
      (fun sum half => if 0xFFFF < sum + half then sum + half - 0x10000 + 1 else sum + half) 0) ∧
  (∀ (lane : LaneIx) (ws : Table 54 Word), validWords lane (.words ws) = some ws ↔
    field (ws.get 53) 0 16 = checkValue ws.cells ∧ field (ws.get 53) 16 16 = 0 ∧ field (ws.get 0) 24 8 = 0x5C ∧
      field (ws.get 0) 20 4 = lane.val ∧ (field (ws.get 0) 18 2 = 1 ∨ field (ws.get 0) 18 2 = 2)) ∧
  (∀ lane, validWords lane .undriven = none ∧ validWords lane .collided = none) ∧
  (∀ lane rx ws, validWords lane rx = some ws → rx = .words ws) ∧
  ∀ lane rx straps s, validWords lane rx = none →
    exec (.laneArrival lane rx straps) s = exec (.laneArrival lane .undriven straps) s

/-- A lane composed under R4 and R7 is valid at a receiver and reads back as it was composed: mark, scope bits, condition
summary, needs, bus words and slot words (R3, R4, R5, R7). A tile field of 15 to 30 is read as 14 (R3). A strobe drives such a
lane (R6): in Joining the header, zero bus words and idle slots (R8), in Contributing the header, the frame's lane words and the
two words of the arbiter (R9, R153), which finds the classes as the strobe leaves them; the header is of the values held before
the strobe, and the own frame count rises by 1 with it (R7). In the other station states the lane is undriven. -/
def Obligations.ComposedLaneReadsBack : Prop :=
  (∀ (node : LaneIx) (code : Nat) (r : Fin 8) (scopes : ScopeBits) (conditions : Byte) (needs row : Table 48 Need)
    (buses : Table 48 Word) (m0 m1 : Word), code = 1 ∨ code = 2 →
    let ws := composeLane (composeMark node code r) (composeScope scopes conditions) (composeTile needs r) buses m0 m1
    validWords node (.words ws) = some ws ∧
      markSync (ws.get 0) = 0x5C ∧ markNode (ws.get 0) = node.val ∧ markState (ws.get 0) = code ∧
      markTile (ws.get 0) = r.val ∧ field (ws.get 0) 0 15 = 0 ∧
      scopeBitsOf (ws.get 1) = scopes ∧ field (ws.get 1) 16 8 = conditions.toNat ∧ field (ws.get 1) 0 16 = 0 ∧
      field (ws.get 2) 30 2 = 0 ∧
      (∀ b, (rowWithTile row r (ws.get 2)).get b = if b.val / 6 = r.val then needs.get b else row.get b) ∧
      (∀ b, busWordOf ws b = buses.get b) ∧ ws.get 51 = m0 ∧ ws.get 52 = m1) ∧
  (∀ (row : Table 48 Need) (r : Nat) (tile : Word) (b : Bus), b.val / 6 = r →
    let n := field tile (25 - 5 * (b.val % 6)) 5
    (n = 31 → (rowWithTile row r tile).get b = none) ∧
    (n ≠ 31 → ((rowWithTile row r tile).get b).map Fin.val = some (min n 14))) ∧
  ∀ (p : Position) (inputs : Table 48 Sample) (s : State), s.resetPin = false →
    let header (code : Nat) := composeLane (composeMark s.stc.nodeId code s.lif.ownFrame)
      (composeScope s.gsu.ownScopes s.stc.conditions) (composeTile s.alu.ownNeeds s.lif.ownFrame)
    ∃ t, exec (.strobe p inputs) s = .next t ∧
      (s.stc.station ≠ .joining → s.stc.station ≠ .contributing →
        t.lif.driven = none ∧ t.lif.ownFrame = s.lif.ownFrame) ∧
      (s.stc.station = .joining → s.stc.joiningComplete = false →
        t.lif.driven = some (header 1 (Table.fill 48 0) 0 0) ∧ t.lif.ownFrame = s.lif.ownFrame + 1) ∧
      (s.stc.station = .contributing ∨ s.stc.station = .joining ∧ s.stc.joiningComplete = true →
        t.lif.ownFrame = s.lif.ownFrame + 1 ∧ ∃ u : State,
          t.lif.driven = some (header 2 (laneWords t) (fillSlot u).1 (fillSlot (fillSlot u).2).1) ∧
          t.mse = (fillSlot (fillSlot u).2).2.mse ∧ u.stc = t.stc ∧ u.mse.inProgress = s.mse.inProgress ∧
          u.mse.announceWaiting = (s.mse.announceWaiting || decide (s.stc.station = .joining)) ∧
          (∃ ns, u.mse.notices = s.mse.notices ++ ns) ∧ u.mse.stripAnswers = s.mse.stripAnswers ∧
          (s.stc.station = .joining ∨ s.mtu.windowCount + 1 ≠ 2048 → u.mse.meterAnswers = s.mse.meterAnswers))

/-- The arrival of a lane whose record is Absent (R12) or Joining (R13), in a frame that is received: the record's new
presence and counts, and nothing else, but for the Contributing arrival that makes a peer lane Present and whose contents are
taken. The own-index record follows the same rules while it is Watched and Listening has not run out (R11). -/
def Obligations.ArrivalBeforePresent : Prop :=
  ∀ (lane : LaneIx) (rx : Reception) (straps : BitVec 4) (s : State), s.resetPin = false → takesFrames s = true →
    s.lif.receiving = true →
    (lane ≠ s.stc.nodeId ∨ s.lif.ownMode = .watched ∧ ¬ (s.stc.station = .listening ∧ s.stc.listeningCount = 128)) →
    ((laneAt s lane).presence = .absent →
      (∀ ws, validWords lane rx = some ws → exec (.laneArrival lane rx straps) s = .next
        (setLane s lane { laneAt s lane with presence := .joining, validRun := 1, invalidRun := 0 })) ∧
      (validWords lane rx = none → exec (.laneArrival lane rx straps) s = .next
        (setLane s lane { laneAt s lane with validRun := 0, invalidRun := 0 }))) ∧
    ((laneAt s lane).presence = .joining → (laneAt s lane).validRun ≤ 16 →
      (∀ ws, validWords lane rx = some ws → ¬ ((laneAt s lane).validRun = 16 ∧ markState (ws.get 0) = 2) →
        exec (.laneArrival lane rx straps) s = .next
          (setLane s lane { laneAt s lane with validRun := min 16 ((laneAt s lane).validRun + 1) })) ∧
      (∀ ws, validWords lane rx = some ws → (laneAt s lane).validRun = 16 → markState (ws.get 0) = 2 →
        exec (.laneArrival lane rx straps) s = .next
          (let t := setLane s lane { laneAt s lane with presence := .present, invalidRun := 0 }
          if lane = s.stc.nodeId then t else takeContents lane straps ws t)) ∧
      (validWords lane rx = none → exec (.laneArrival lane rx straps) s = .next
        (setLane s lane { laneAt s lane with presence := .absent, validRun := 0, invalidRun := 0 })))

/-- The arrival of a Present peer lane (R14): a Contributing one takes the contents, a Joining one is a restart, an invalid one
loses the frame, and the sixteenth invalid one in a row loses the lane and raises LaneLoss. The own-index record, while it is
Watched and Listening has not run out, follows the same rules and hands nothing on (R11). -/
def Obligations.ArrivalWhilePresent : Prop :=
  (∀ (lane : LaneIx) (rx : Reception) (straps : BitVec 4) (s : State), s.resetPin = false → takesFrames s = true →
    s.lif.receiving = true → lane ≠ s.stc.nodeId → (laneAt s lane).presence = .present →
    (∀ ws, validWords lane rx = some ws → markState (ws.get 0) = 2 → exec (.laneArrival lane rx straps) s = .next
      (takeContents lane straps ws (setLane s lane { laneAt s lane with invalidRun := 0 }))) ∧
    (∀ ws, validWords lane rx = some ws → markState (ws.get 0) = 1 → exec (.laneArrival lane rx straps) s = .next
      (leavePresent lane (setLane s lane { laneAt s lane with presence := .joining, invalidRun := 0 }))) ∧
    (validWords lane rx = none → (laneAt s lane).invalidRun < 15 → exec (.laneArrival lane rx straps) s = .next
      (lostFrame lane (setLane s lane { laneAt s lane with invalidRun := (laneAt s lane).invalidRun + 1 }))) ∧
    (validWords lane rx = none → (laneAt s lane).invalidRun = 15 → exec (.laneArrival lane rx straps) s = .next
      (raise .laneLoss
        (leavePresent lane (setLane s lane { laneAt s lane with presence := .absent, validRun := 0, invalidRun := 0 }))))) ∧
  ∀ (rx : Reception) (straps : BitVec 4) (s : State), s.resetPin = false → takesFrames s = true →
    s.lif.receiving = true → s.lif.ownMode = .watched →
    ¬ (s.stc.station = .listening ∧ s.stc.listeningCount = 128) → (laneAt s s.stc.nodeId).presence = .present →
    let own := laneAt s s.stc.nodeId
    let becomes (r : LaneRecord) := exec (.laneArrival s.stc.nodeId rx straps) s = .next (setLane s s.stc.nodeId r)
    (∀ ws, validWords s.stc.nodeId rx = some ws → markState (ws.get 0) = 2 → becomes { own with invalidRun := 0 }) ∧
    (∀ ws, validWords s.stc.nodeId rx = some ws → markState (ws.get 0) = 1 →
      becomes { own with presence := .joining, invalidRun := 0 }) ∧
    (validWords s.stc.nodeId rx = none → own.invalidRun < 15 → becomes { own with invalidRun := own.invalidRun + 1 }) ∧
    (validWords s.stc.nodeId rx = none → own.invalidRun = 15 →
      becomes { own with presence := .absent, validRun := 0, invalidRun := 0 })

/-- What a lane's leaving Present does (R17, R79, R84, R89, R141, R160): its needs and scope byte are dropped, its partial
message and its Bind Collection discarded, the link scope state formed afresh. The other lanes, the queue, the Due List, the
settings, the Group Table, the own scope bits, the latches and the audio histories stand. -/
def Obligations.LeavingPresentDropsLane : Prop :=
  ∀ (lane : LaneIx) (s : State),
    let t := leavePresent lane s
    laneAt t lane = { laneAt s lane with scopes := Table.fill 8 false, needs := Table.fill 48 none } ∧
    (∀ n, n ≠ lane → laneAt t n = laneAt s n) ∧
    t.lif = { s.lif with lanes := t.lif.lanes } ∧
    reassemblyAt t lane = .idle ∧ (∀ n, n ≠ lane → reassemblyAt t n = reassemblyAt s n) ∧
    collectionAt t lane = { remaining := 0, held := [], stamp := .undetermined } ∧
    (∀ n, n ≠ lane → collectionAt t n = collectionAt s n) ∧ t.chs.queue = s.chs.queue ∧ t.chs.due = s.chs.due ∧
    (∀ sc, t.gsu.linkScopes.get sc = true ↔ s.gsu.ownScopes.get sc = true ∨
      ∃ n, n ≠ lane ∧ n ≠ s.stc.nodeId ∧ (laneAt s n).presence = .present ∧ (laneAt s n).scopes.get sc = true) ∧
    t.gsu.groups = s.gsu.groups ∧ t.gsu.ownScopes = s.gsu.ownScopes ∧ t.sst = s.sst ∧ t.rfr = s.rfr ∧ t.mtu = s.mtu ∧
    (∀ c, alignAt s c = .overdepth → alignAt t c = .overdepth) ∧
    (∀ c, (pathAt t c).history = (pathAt s c).history ∧ (pathAt t c).source = (pathAt s c).source) ∧
    t.mxd.busHistory = s.mxd.busHistory ∧ t.mxd.totals = s.mxd.totals ∧ t.mxd.outputs = s.mxd.outputs ∧
    t.stc = { s.stc with conditions := t.stc.conditions } ∧ s.stc.conditions &&& t.stc.conditions = s.stc.conditions

/-- The contents of a Present peer lane's arrival (R15, R16, R84, R125, R136, R150): its scope byte and the six needs of its
tile are stored, its 48 bus words added into the open totals, the link scope state formed afresh; no other lane, no message, no
change, no setting, no history, no source in force and no output moves, and every Overdepth latch stays (R106). Then its slot
words are taken, slot 0 before slot 1, and slot 1 is not read where slot 0 brought a Station Reset. Idle slots between messages
leave it at that. That the slot words find the scope byte, the tile and its settling, and the bus words already taken is the
model's deduction (notes/assumptions/12.md). -/
def Obligations.TakenArrivalStoresContents : Prop :=
  ∀ (lane : LaneIx) (straps : BitVec 4) (ws : Table 54 Word) (s : State), s.resetPin = false → takesFrames s = true →
    s.lif.receiving = true → lane ≠ s.stc.nodeId → (laneAt s lane).presence = .present →
    validWords lane (.words ws) = some ws → markState (ws.get 0) = 2 →
    ∃ t : State,
      laneAt t lane = { laneAt s lane with
        invalidRun := 0
        scopes := scopeBitsOf (ws.get 1)
        needs := rowWithTile (laneAt s lane).needs (markTile (ws.get 0)) (ws.get 2) } ∧
      (∀ n, n ≠ lane → laneAt t n = laneAt s n) ∧
      (∀ totals, s.mxd.totals = some totals →
        t.mxd.totals = some (Table.make fun b => totals.get b + (ws.get ⟨3 + b.val, by omega⟩).toInt)) ∧
      (s.mxd.totals = none → t.mxd.totals = none) ∧
      (∀ sc, t.gsu.linkScopes.get sc = true ↔ s.gsu.ownScopes.get sc = true ∨ (ws.get 1).getLsbD (24 + sc.val) = true ∨
        ∃ n, n ≠ lane ∧ n ≠ s.stc.nodeId ∧ (laneAt s n).presence = .present ∧ (laneAt s n).scopes.get sc = true) ∧
      t.gsu.groups = s.gsu.groups ∧ t.gsu.ownScopes = s.gsu.ownScopes ∧ t.sst = s.sst ∧ t.chs = s.chs ∧ t.rfr = s.rfr ∧
      t.mtu = s.mtu ∧ t.mse = { s.mse with notices := t.mse.notices } ∧
      t.stc = { s.stc with conditions := t.stc.conditions } ∧ t.mxd.busHistory = s.mxd.busHistory ∧
      (∀ c, (pathAt t c).history = (pathAt s c).history ∧ (pathAt t c).source = (pathAt s c).source) ∧
      (∀ c, alignAt s c = .overdepth → alignAt t c = .overdepth) ∧
      t.mxd.outputs = s.mxd.outputs ∧
      exec (.laneArrival lane (.words ws) straps) s = .next (
        let u := takeWord lane straps (ws.get 51) t
        if u.stc.station = .booting then u else takeWord lane straps (ws.get 52) u) ∧
      (ws.get 51 = 0 → ws.get 52 = 0 → reassemblyAt s lane = .idle →
        exec (.laneArrival lane (.words ws) straps) s = .next t)

/-- The arrival of the own lane in a frame the engine drove (R18, R19, R20, R30): clean, it clears the mismatch count and in
Joining adds to the clean-run count, reporting Joining complete at 64; a mismatch adds to the mismatch count and in Joining
clears the clean-run count, and the fourth in a row sends the station to Silent with stop cause LaneConflict. Where the record
is Own in Silent, the arrival of the own-index lane changes nothing: readback has stopped (R20, R30). An arrival of any lane
that is not taken changes nothing: in Booting and Isolated, and in a frame that is not received (R2, R21, R31, R33, R150), which
is the model's mark of a frame opened in Booting or cut off by a reset or a Loss (notes/assumptions/30.md). -/
def Obligations.OwnLaneReadback : Prop :=
  (∀ (lane : LaneIx) (rx : Reception) (straps : BitVec 4) (s : State),
    s.stc.station = .booting ∨ s.stc.station = .isolated ∨ s.lif.receiving = false →
    exec (.laneArrival lane rx straps) s = .next s) ∧
  (∀ (rx : Reception) (straps : BitVec 4) (s : State), s.stc.station = .silent → s.lif.ownMode = .own →
    exec (.laneArrival s.stc.nodeId rx straps) s = .next s) ∧
  ∀ (rx : Reception) (straps : BitVec 4) (driven : Table 54 Word) (s : State), s.resetPin = false →
    s.lif.receiving = true → s.lif.ownMode = .own → (s.stc.station = .joining ∨ s.stc.station = .contributing) →
    s.lif.driven = some driven → s.lif.mismatch ≤ 3 → s.lif.cleanRun ≤ 64 →
    let joining := decide (s.stc.station = .joining)
    (validWords s.stc.nodeId rx = some driven → exec (.laneArrival s.stc.nodeId rx straps) s = .next
      { s with
        lif := { s.lif with mismatch := 0, cleanRun := if joining then min 64 (s.lif.cleanRun + 1) else s.lif.cleanRun }
        stc := { s.stc with
          joiningComplete := s.stc.joiningComplete || joining && decide (63 ≤ s.lif.cleanRun) } }) ∧
    (validWords s.stc.nodeId rx ≠ some driven → s.lif.mismatch < 3 → exec (.laneArrival s.stc.nodeId rx straps) s = .next
      { s with lif := { s.lif with
          mismatch := s.lif.mismatch + 1, cleanRun := if joining then 0 else s.lif.cleanRun } }) ∧
    (validWords s.stc.nodeId rx ≠ some driven → s.lif.mismatch = 3 → exec (.laneArrival s.stc.nodeId rx straps) s = .next
      { s with
        lif := { s.lif with mismatch := 4, cleanRun := if joining then 0 else s.lif.cleanRun }
        stc := { s.stc with
          station := .silent, joiningComplete := false
          stop := { cause := .laneConflict, position := s.rfr.position, left := stateLeftOf s.stc.station } }
        mse := { s.mse with inProgress := none } })

/-- Every step keeps the Lane Table sound (R10 to R20, R94). -/
def Obligations.StepKeepsLaneTableOk : Prop :=
  ∀ s t : State, LaneTableOk s → step s = .next t → LaneTableOk t

/-- The events of the lanes taken by themselves (the model's choice, notes/assumptions/5.md) where the count stands one
short: LANE_LOST (R14), LANE_CONFLICT (R18, R30), JOINING_COMPLETE (R19), END_OF_LISTENING (R25, R26, R30). And the arrival of
the Watched own-index lane in the 128th Listening frame, which ends Listening by the presence it leaves in the record (R25). -/
def Obligations.LaneEventsTakenAlone : Prop :=
  (∀ (lane : LaneIx) (s : State), s.resetPin = false → takesFrames s = true → lane ≠ s.stc.nodeId →
    (laneAt s lane).presence = .present → (laneAt s lane).invalidRun = 15 →
    exec (.laneLost lane) s = .next (raise .laneLoss
      (leavePresent lane (setLane s lane { laneAt s lane with presence := .absent, validRun := 0, invalidRun := 0 })))) ∧
  (∀ s : State, s.resetPin = false → (s.stc.station = .joining ∨ s.stc.station = .contributing) → s.lif.mismatch = 3 →
    ∃ t, exec .laneConflict s = .next t ∧ t.lif.mismatch = 4 ∧ t = { s with
      lif := t.lif
      stc := { s.stc with
        station := .silent, joiningComplete := false
        stop := { cause := .laneConflict, position := s.rfr.position, left := stateLeftOf s.stc.station } }
      mse := { s.mse with inProgress := none } }) ∧
  (∀ s : State, s.resetPin = false → s.stc.station = .joining → s.lif.cleanRun = 63 →
    exec .joiningComplete s = .next { s with
      lif := { s.lif with mismatch := 0, cleanRun := 64 }
      stc := { s.stc with joiningComplete := true } }) ∧
  (∀ s : State, s.resetPin = false → s.stc.station = .listening → s.stc.listeningCount = 128 →
    ((laneAt s s.stc.nodeId).presence = .absent → ∃ t, exec .endOfListening s = .next t ∧
      t.stc = { s.stc with station := .joining, joiningComplete := false } ∧ t.lif.ownMode = .own ∧ t.lif.mismatch = 0 ∧
      t.lif.cleanRun = 0 ∧ t.lif.ownFrame = 0 ∧ (∀ n, n ≠ s.stc.nodeId → laneAt t n = laneAt s n) ∧
      t = { s with lif := t.lif, stc := t.stc }) ∧
    ((laneAt s s.stc.nodeId).presence ≠ .absent → exec .endOfListening s = .next { s with
      stc := { s.stc with
        station := .silent, joiningComplete := false
        stop := { cause := .nodeInUse, position := s.rfr.position, left := .listening } }
      mse := { s.mse with inProgress := none } })) ∧
  ∀ (rx : Reception) (straps : BitVec 4) (s : State), s.resetPin = false → s.lif.receiving = true →
    s.stc.station = .listening → s.stc.listeningCount = 128 → s.lif.ownMode = .watched →
    let own := laneAt s s.stc.nodeId
    let leavesAbsent := validWords s.stc.nodeId rx = none ∧ (own.presence = .present → 15 ≤ own.invalidRun)
    ∃ t, exec (.laneArrival s.stc.nodeId rx straps) s = .next t ∧
      (∀ n, n ≠ s.stc.nodeId → laneAt t n = laneAt s n) ∧
      (leavesAbsent → t = { s with lif := t.lif, stc := { s.stc with station := .joining, joiningComplete := false } } ∧
        laneAt t s.stc.nodeId = { own with presence := .absent, validRun := 0, invalidRun := 0 } ∧
        t.lif = { s.lif with lanes := t.lif.lanes, ownMode := .own, mismatch := 0, cleanRun := 0, ownFrame := 0 }) ∧
      (¬ leavesAbsent → (laneAt t s.stc.nodeId).presence ≠ .absent ∧ t = { s with
        lif := { s.lif with lanes := t.lif.lanes }
        stc := { s.stc with
          station := .silent, joiningComplete := false
          stop := { cause := .nodeInUse, position := s.rfr.position, left := .listening } }
        mse := { s.mse with inProgress := none } })

/-- An input port's lock (R52): gained, it is Locked and nothing is raised; lost, it is Unlocked and InputFault is raised. No
other port and no other state moves, in any station state. The sample of each source (R53). That lock events are taken under an
asserted reset pin too, and that a LOCK_LOST at an Unlocked port raises InputFault all the same, is the model's choice
(notes/assumptions/7.md and 24.md). -/
def Obligations.PortLockIsFollowed : Prop :=
  ∀ (port : PortIx) (s : State),
    exec (.lockGained port) s = .next { s with mxd := { s.mxd with locks := s.mxd.locks.put port true } } ∧
    exec (.lockLost port) s =
      .next (raise .inputFault { s with mxd := { s.mxd with locks := s.mxd.locks.put port false } }) ∧
    ∀ inputs : Table 48 Sample, (∀ n : InputIx, n.val / 8 = port.val →
      (s.mxd.locks.get port = false → sourceSample s inputs (.input n) = 0) ∧
      (s.mxd.locks.get port = true → sourceSample s inputs (.input n) = inputs.get n)) ∧
      (∀ b, sourceSample s inputs (.busReturn b) = (s.mxd.busHistory.get b).get 0) ∧ sourceSample s inputs .none = 0

/-! ### Bound sets and stamped changes -/

/-- An unbound STRIP_SET of a strip in range, and an unbound GROUP_LEVEL, are placed under their own stamp; an unbound
STRIP_SET of a strip out of range is dropped (R144, R161, R162, R164, R165). -/
def Obligations.UnboundChangeIsPlaced : Prop :=
  ∀ (lane : LaneIx) (stamp : Option Position) (s : State), s.resetPin = false → takesChanges s = true →
    (collectionAt s lane).remaining = 0 →
    (∀ (strip param : BitVec 16) (w : Word) (c : Chan), strip.toNat = s.stc.stripBase + c.val →
      ∃ t, exec (.stripSet lane strip param w stamp) s = .next t ∧
        PlacedAs [{ change := .strip c param w, lane := lane }] stamp s t) ∧
    (∀ (strip param : BitVec 16) (w : Word),
      strip.toNat < s.stc.stripBase ∨ s.stc.stripBase + 48 ≤ strip.toNat →
      exec (.stripSet lane strip param w stamp) s = .next s) ∧
    ∀ gf m : Word, ∃ t, exec (.groupLevel lane gf m stamp) s = .next t ∧
      PlacedAs [{ change := .group gf m, lane := lane }] stamp s t

/-- A well-formed BIND opens its lane's set, or restarts the open one with its members and stamp kept; no other collection and
nothing else moves (R145, R156). -/
def Obligations.BindOpensOrRestartsSet : Prop :=
  ∀ (lane : LaneIx) (count : Word) (s : State), s.resetPin = false → takesChanges s = true → 1 ≤ count.toNat →
    count.toNat ≤ 4 →
    ∃ t, exec (.bind lane count) s = .next t ∧
      collectionAt t lane = (if (collectionAt s lane).remaining = 0 then
          { remaining := count.toNat, held := [], stamp := .undetermined }
        else { collectionAt s lane with remaining := count.toNat }) ∧
      (∀ n, n ≠ lane → collectionAt t n = collectionAt s n) ∧
      t = { s with chs := { s.chs with collections := t.chs.collections } }

/-- A STRIP_SET or GROUP_LEVEL counted in an open set (R157): the first counted member fixes the stamp, a member this engine
acts on is held at the end of the list, the count falls by 1, and nothing else moves. With 16 held, one that this engine acts on
overflows the set instead, whatever count remains: the set is placed whole, then the change by itself (R158). A STRIP_SET of a
strip out of range is counted and not held. -/
def Obligations.SetCountsMembers : Prop :=
  ∀ (lane : LaneIx) (stamp : Option Position) (s : State), s.resetPin = false → takesChanges s = true →
    1 ≤ (collectionAt s lane).remaining →
    let col := collectionAt s lane
    let fixed := if col.stamp = .undetermined then (match stamp with
      | none => SetStamp.absent
      | some p => SetStamp.stamped p) else col.stamp
    (∀ (m : Instr) (change : Change), Delivers s lane stamp m change →
      (2 ≤ col.remaining → col.held.length < 16 → exec m s = .next (setCollection s lane
        { remaining := col.remaining - 1, held := col.held ++ [change], stamp := fixed })) ∧
      (col.held.length = 16 → ∃ u t, exec m s = .next t ∧
        PlacedAs (col.held.map fun c => { change := c, lane := lane }) (placingStamp fixed)
          (setCollection s lane BindCollection.cleared) u ∧
        PlacedAs [{ change := change, lane := lane }] stamp u t)) ∧
    ∀ strip param w, strip.toNat < s.stc.stripBase ∨ s.stc.stripBase + 48 ≤ strip.toNat → 2 ≤ col.remaining →
      exec (.stripSet lane strip param w stamp) s = .next (setCollection s lane
        { remaining := col.remaining - 1, held := col.held, stamp := fixed })

/-- A set closes (R159): by the STRIP_SET or GROUP_LEVEL that is its last member, and as SET_CLOSE taken by itself (when it is,
is the model's choice: notes/assumptions/22.md); the held members are placed in lane order as one unit under the set stamp, and
the collection returns to no set open. A last member out of range is not held. A set with no held members places nothing. -/
def Obligations.SetClosePlacesMembersWhole : Prop :=
  ∀ (lane : LaneIx) (s : State), s.resetPin = false → takesChanges s = true →
    let col := collectionAt s lane
    let setStamp (stamp : Option Position) := if col.stamp = .undetermined then stamp else placingStamp col.stamp
    let unit (cs : List Change) : List LaneChange := cs.map fun c => { change := c, lane := lane }
    let closed := setCollection s lane BindCollection.cleared
    (col.remaining = 1 → ∀ stamp : Option Position,
      (col.held.length < 16 → ∀ (m : Instr) (change : Change), Delivers s lane stamp m change →
        ∃ t, exec m s = .next t ∧ PlacedAs (unit (col.held ++ [change])) (setStamp stamp) closed t) ∧
      ∀ strip param w, strip.toNat < s.stc.stripBase ∨ s.stc.stripBase + 48 ≤ strip.toNat →
        ∃ t, exec (.stripSet lane strip param w stamp) s = .next t ∧
          (col.held ≠ [] → PlacedAs (unit col.held) (setStamp stamp) closed t) ∧ (col.held = [] → t = closed)) ∧
    (col.remaining = 1 ∨ (0 < col.remaining ∧ col.held.length = 16) →
      ∃ t, exec (.setClose lane) s = .next t ∧
        (col.held ≠ [] → PlacedAs (unit col.held) (placingStamp col.stamp) closed t) ∧
        (col.held = [] → t = closed))

/-- Every step keeps the queue ordered and within 64 entries and the collections within their bounds (R155, R158, R163). -/
def Obligations.StepKeepsSchedulerOk : Prop :=
  ∀ s t : State, SchedulerOk s → step s = .next t → SchedulerOk t

/-- The Change Scheduler at a strobe (R166 to R169). In Listening, Joining and Contributing the ripe entries of the queue,
after the flush that a Locate of either kind makes, are applied and then the whole Due List, in this order, and both are
removed. In Booting and Silent nothing is applied: a Locate flushes the queue, and all else is held. -/
def Obligations.StrobeAppliesDueChanges : Prop :=
  ∀ (p : Position) (inputs : Table 48 Sample) (s : State), s.resetPin = false →
    let queue := if s.rfr.known = true ∧ (p = s.rfr.position ∨ p.toNat = s.rfr.position.toNat + 1) then s.chs.queue else []
    (takesChanges s = true → ∃ t, exec (.strobe p inputs) s = .next t ∧
      t.chs = { s.chs with queue := queue.dropWhile fun e => decide (e.target.toNat ≤ p.toNat), due := [] } ∧
      (let changes := (queue.takeWhile fun e => decide (e.target.toNat ≤ p.toNat)).map (fun e => e.change) ++ s.chs.due
      t.sst = (changes.foldl applyChange s).sst ∧ t.gsu.groups = (changes.foldl applyChange s).gsu.groups)) ∧
    (s.stc.station = .booting ∨ s.stc.station = .silent → ∃ t, exec (.strobe p inputs) s = .next t ∧
      t.chs = { s.chs with queue := queue } ∧ t.sst = s.sst ∧ t.gsu.groups = s.gsu.groups)

/-- The Channel Table and the Group Table change at a strobe, at a power-on and at a pin reset alone; a Silent station's do not
change at a strobe either (R30, R39, R40, R75, R79, R170). -/
def Obligations.SettingsChangeOnlyAtStrobes : Prop :=
  ∀ c s t, exec c s = .next t → (∀ straps, c ≠ .powerOn straps) → (∀ straps, c ≠ .pinReset straps) →
    ((∀ p inputs, c ≠ .strobe p inputs) ∨ takesChanges s = false) →
    t.sst = s.sst ∧ t.gsu.groups = s.gsu.groups

/-! ### Channel strips -/

/-- What a read of each parameter answers after a write to it (R42 to R47): the converted value, clamped, as a code or as
switches; a write to an id of 32 or more is ignored (R41), and an id of 50 or more reads 0. The read-only ids (R47): Return
State, Channel Depth with 15 for Overdepth, the delay in force and the current coefficient of each send. -/
def Obligations.WrittenParameterReadsBack : Prop :=
  ∀ (c : Chan) (id : BitVec 16) (w : Word) (s : State),
    let r := readParam (applyWrite c id w s) c id
    (id.toNat = 0 → r = if w.toNat < 48 ∨ 64 ≤ w.toNat ∧ w.toNat < 112 then w else 255) ∧
    (id.toNat = 1 → r.toInt = max (-96) (min 96 w.toInt)) ∧
    (id.toNat = 2 ∨ 16 ≤ id.toNat ∧ id.toNat < 24 → r.toInt = max (-480) (min 48 w.toInt)) ∧
    (id.toNat = 3 ∨ id.toNat = 4 ∨ id.toNat = 5 → r = if w = 0 then 0 else 1) ∧
    (id.toNat = 6 → r.toInt = max 0 (min 7 w.toInt)) ∧
    (id.toNat = 7 → r = groupsWord (groupsOf w)) ∧
    (8 ≤ id.toNat ∧ id.toNat < 16 → r = if w.toNat < 48 then w else 255) ∧
    (24 ≤ id.toNat ∧ id.toNat < 32 → r = w &&& 3) ∧
    (32 ≤ id.toNat → applyWrite c id w s = s) ∧
    (50 ≤ id.toNat → r = 0) ∧
    (id.toNat = 32 → r = if alignAt s c = .overdepth then 1 else 0) ∧
    (id.toNat = 33 → (alignAt s c = .overdepth → r = 15) ∧ ∀ d, alignAt s c = .normal d → r.toNat = d.val) ∧
    ∀ k : SendIx, (id.toNat = 34 + k.val → r.toNat = ((pathAt s c).sends.get k).delay.val) ∧
      (id.toNat = 42 + k.val → ((pathAt s c).sends.get k).coef ≤ 268435456 → r.toNat = ((pathAt s c).sends.get k).coef)

/-- A write changes one parameter of one channel (R40, R41): every other channel's record and every other setting of the
channel stand, and so do the Group Table, the lanes, the changes, the meters and the station. A write to Source or Send k Bus
posts its item, whatever its value, and turns a ramp in Steady or In to Out at its factor; what is in force stands (R50, R115,
R119). Any other write posts nothing. -/
def Obligations.WriteChangesOneParameter : Prop :=
  ∀ (c : Chan) (id : BitVec 16) (w : Word) (s : State),
    let t := applyWrite c id w s
    (∀ n, n ≠ c → channelAt t n = channelAt s n) ∧
    (∀ other : BitVec 16, other ≠ id → other.toNat < 32 → readParam t c other = readParam s c other) ∧
    t.gsu.groups = s.gsu.groups ∧ t.lif = s.lif ∧ t.chs = s.chs ∧ t.mtu = s.mtu ∧ t.rfr = s.rfr ∧
    t.stc = { s.stc with conditions := t.stc.conditions } ∧
    t.mse = { s.mse with notices := t.mse.notices } ∧
    (id.toNat = 0 → (pathAt t c).pending.source = some (channelAt t c).source ∧
      (pathAt t c).pending.buses = (pathAt s c).pending.buses) ∧
    (∀ k : SendIx, id.toNat = 8 + k.val → (pathAt t c).pending.source = (pathAt s c).pending.source ∧
      (pathAt t c).pending.buses = (pathAt s c).pending.buses.put k (some ((channelAt t c).sends.get k).bus)) ∧
    (id.toNat = 0 ∨ 8 ≤ id.toNat ∧ id.toNat < 16 →
      pathAt t c = { pathAt s c with pending := (pathAt t c).pending, ramp := (pathAt t c).ramp } ∧
      (pathAt t c).ramp.k = (pathAt s c).ramp.k ∧
      ((pathAt s c).ramp.state = .steady ∨ (pathAt s c).ramp.state = .rampIn → (pathAt t c).ramp.state = .rampOut) ∧
      ((pathAt s c).ramp.state = .rampOut ∨ (pathAt s c).ramp.state = .held →
        (pathAt t c).ramp.state = (pathAt s c).ramp.state)) ∧
    (id.toNat ≠ 0 → ¬ (8 ≤ id.toNat ∧ id.toNat < 16) → t.mxd = s.mxd ∧ t.alu = s.alu)

/-- A Groups word forms a list of at most four distinct groups, in the order of the bytes, each at its first occurrence, with
empty bytes left out; the list reads back in the same bytes with 255 in those it does not fill (R46). A write to Groups makes
it the channel's whole list. -/
def Obligations.GroupsWordKeepsFirstOccurrences : Prop :=
  (∀ w : Word, (groupsOf w).length ≤ 4 ∧ (groupsOf w).Nodup ∧
    ((groupsOf w).map Fin.val).Sublist [field w 24 8, field w 16 8, field w 8 8, field w 0 8] ∧
    (∀ g : GroupIx, g ∈ groupsOf w ↔ g.val = field w 24 8 ∨ g.val = field w 16 8 ∨ g.val = field w 8 8 ∨ g.val = field w 0 8) ∧
    ∀ i j : Fin 4, i < j → ∀ g h : GroupIx, g.val = field w (24 - 8 * i.val) 8 → h.val = field w (24 - 8 * j.val) 8 →
      (∀ k : Fin 4, k < j → h.val ≠ field w (24 - 8 * k.val) 8) → (groupsOf w).idxOf g < (groupsOf w).idxOf h) ∧
  (∀ gs : List GroupIx, gs.length ≤ 4 →
    (∀ i : Fin 4, field (groupsWord gs) (24 - 8 * i.val) 8 = match gs[i.val]? with
      | some g => g.val
      | none => 255) ∧
    (gs.Nodup → groupsOf (groupsWord gs) = gs)) ∧
  ∀ (c : Chan) (w : Word) (s : State), (channelAt (applyWrite c 7 w s) c).groups = groupsOf w ∧
    readParam s c 7 = groupsWord (channelAt s c).groups

/-- A STRIP_QUERY of a strip in range queues a Strip Answer with the strip, the id and the value the table gives at this
event, addressed to the asking lane; where class 2 is full, or the strip is out of range, nothing changes (R143, R146, R152). -/
def Obligations.StripQueryQueuesAnswer : Prop :=
  ∀ (lane : LaneIx) (strip param : BitVec 16) (s : State), s.resetPin = false → takesChanges s = true →
    (∀ c : Chan, strip.toNat = s.stc.stripBase + c.val →
      (s.mse.stripAnswers.length + inProgressCount s.mse .stripAnswer < 8 →
        exec (.stripQuery lane strip param) s = .next { s with
          mse := { s.mse with stripAnswers := s.mse.stripAnswers ++
            [{ lane := lane, strip := strip, param := param, value := readParam s c param }] } }) ∧
      (8 ≤ s.mse.stripAnswers.length + inProgressCount s.mse .stripAnswer →
        exec (.stripQuery lane strip param) s = .next s)) ∧
    (strip.toNat < s.stc.stripBase ∨ s.stc.stripBase + 48 ≤ strip.toNat →
      exec (.stripQuery lane strip param) s = .next s)

/-! ### Gain -/

/-- Conv(q) is the value of R60: 0 at −480 and below, else the base value of the remainder shifted by the octave, rounded half
up below the point; it never falls as q rises, from −432 upward every step has a coefficient of its own, and it lies in
0..268,435,456 up to +96. The base value of r is the whole number nearest 65,536 × 2^(r/24). -/
def Obligations.ConvIsR60 : Prop :=
  (∀ r : Fin 24, (2 * Config.gainBase.get r - 1) ^ 24 < 2 ^ (24 * 17 + r.val) ∧
    2 ^ (24 * 17 + r.val) < (2 * Config.gainBase.get r + 1) ^ 24) ∧
  (∀ q q' : Int, -432 ≤ q → q < q' → conv q < conv q') ∧
  (∀ q : Int, q ≤ -480 → conv q = 0) ∧
  (∀ (q o : Int) (r : Fin 24), -480 < q → q = 24 * o + (r.val : Int) → 0 ≤ o + 8 →
    conv q = Config.gainBase.get r * 2 ^ (o + 8).toNat) ∧
  (∀ (q o : Int) (r : Fin 24) (n : Nat), -480 < q → q = 24 * o + (r.val : Int) → o + 8 = -(n : Int) → 0 < n →
    conv q = (Config.gainBase.get r + 2 ^ (n - 1)) / 2 ^ n) ∧
  (∀ q q' : Int, q ≤ q' → conv q ≤ conv q') ∧
  ∀ q : Int, q ≤ 96 → conv q ≤ 268435456

/-- A send's target is 0 while one of the seven conditions of R59 closes its gate, and else Conv of the clamped exact sum of
Trim, Fader, group masters and Level (R57, R61); the meter path's leaves out the send's level and the two send conditions
(R58); every target lies in 0..268,435,456. -/
def Obligations.TargetsFollowTotalsAndGates : Prop :=
  ∀ (s : State) (c : Chan),
    let r := channelAt s c
    let masters := (r.groups.map fun g => (s.gsu.groups.get g).master).sum
    let meterGate := r.mute = true ∨ (∃ g ∈ r.groups, (s.gsu.groups.get g).mute = true) ∨ s.gsu.gated.get c = true ∨
      r.source = .none ∨ alignAt s c = .overdepth
    (∀ k,
      let sendGate := meterGate ∨ (r.sends.get k).on = false ∨ (r.sends.get k).bus = none
      (sendGate → sendTarget s c k = 0) ∧
      (¬ sendGate → sendTarget s c k =
        conv (max (-480) (min 96 (r.trim + r.fader + masters + (r.sends.get k).level)))) ∧
      sendTarget s c k ≤ 268435456) ∧
    (meterGate → meterTarget s c = 0) ∧
    (¬ meterGate → meterTarget s c = conv (max (-480) (min 96 (r.trim + r.fader + masters)))) ∧
    meterTarget s c ≤ 268435456

/-- A glide toward a standing target (R66, R67): every frame's coefficient lies between the start and the target, the
sixteenth is the target, and the next frame holds it; a frame whose target differs from the glide's begins a new glide from
the current coefficient, or holds where they agree. -/
def Obligations.GlideReachesTargetInSixteenFrames : Prop :=
  (∀ (p : SendPath) (t : Nat), p.glide = .holding →
    (∀ n : Nat, 1 ≤ n → n ≤ 16 →
      let q := (fun x => glideStep x t)^[n] p
      min p.coef t ≤ q.coef ∧ q.coef ≤ max p.coef t ∧
        (q.coef : Int) = p.coef + roundDiv (((t : Int) - p.coef) * n) 16 ∧
        (n = 16 → q.coef = t ∧ (glideStep q t).glide = .holding ∧ (glideStep q t).coef = t)) ∧
    (t = p.coef → glideStep p t = p)) ∧
  ∀ (p : SendPath) (c0 t0 j t : Nat), p.glide = .gliding c0 t0 j → t ≠ t0 →
    (t = p.coef → glideStep p t = { p with glide := .holding }) ∧
    (t ≠ p.coef → (glideStep p t).glide = .gliding p.coef t 1 ∧
      ((glideStep p t).coef : Int) = p.coef + roundDiv ((t : Int) - p.coef) 16)

/-- The contribution of a send (R70): the product over 2^29 with one rounding, ties away from zero; inverting negates it
exactly, unity at K = 32 gives the sample, C = 0 or K = 0 gives 0, and no magnitude exceeds 2^27, which is reached. The lane
words of a Contributing frame (R72, R73): the exact sum over the sends whose bus in force is the bus, saturated to 32 bits, 0
where there is no such send; Clip is due where a sum lies outside the range. -/
def Obligations.ContributionsSumToLaneWords : Prop :=
  (∀ (invert : Bool) (x : Sample) (coef k : Nat),
    let n : Int := (if invert then -1 else 1) * x.toInt * coef * k
    let y := contribution invert x coef k
    2 * (n - y * 2 ^ 29).natAbs ≤ 2 ^ 29 ∧ (2 * (n - y * 2 ^ 29).natAbs = 2 ^ 29 → n.natAbs ≤ y.natAbs * 2 ^ 29)) ∧
  (∀ (x : Sample) (coef k : Nat), contribution true x coef k = - contribution false x coef k) ∧
  (∀ x : Sample, contribution false x 16777216 32 = x.toInt) ∧
  (∀ (invert : Bool) (x : Sample) (n : Nat), contribution invert x 0 n = 0 ∧ contribution invert x n 0 = 0) ∧
  (∀ (invert : Bool) (x : Sample) (coef k : Nat), coef ≤ 268435456 → k ≤ 32 → (contribution invert x coef k).natAbs ≤ 2 ^ 27) ∧
  contribution false (BitVec.ofInt 24 (-8388608)) 268435456 32 = -134217728 ∧
  contribution true (BitVec.ofInt 24 (-8388608)) 268435456 32 = 134217728 ∧
  ∀ (s : State) (b : Bus),
    ((laneWords s).get b).toInt = max (-2147483648) (min 2147483647 (laneSum s b)) ∧
    laneSum s b = (∑ c : Chan, ∑ k : SendIx,
      if ((pathAt s c).sends.get k).bus = some b then
        contribution ((channelAt s c).sends.get k).invert ((pathAt s c).history.get ((pathAt s c).sends.get k).delay)
          ((pathAt s c).sends.get k).coef (pathAt s c).ramp.k
      else 0) ∧
    ((∀ c k, ((pathAt s c).sends.get k).bus ≠ some b) → (laneWords s).get b = 0) ∧
    (laneClips s = true ↔ ∃ b, laneSum s b < -2147483648 ∨ 2147483647 < laneSum s b)

/-! ### Groups, solo and depth -/

/-- A Group Level change writes all three values of the entry it names: Master clamped, Mute and Solo from bits 0 and 1 of the
flags; no other entry and no channel setting moves, and a group of 32 or more names no entry (R76). -/
def Obligations.GroupLevelWritesNamedEntry : Prop :=
  ∀ (gf m : Word) (s : State),
    (∀ g : GroupIx, field gf 16 16 = g.val →
      let e := (applyGroupLevel gf m s).gsu.groups.get g
      e.master = max (-480) (min 48 m.toInt) ∧ e.mute = gf.getLsbD 0 ∧ e.solo = gf.getLsbD 1 ∧
      (∀ h, h ≠ g → (applyGroupLevel gf m s).gsu.groups.get h = s.gsu.groups.get h) ∧
      applyGroupLevel gf m s = s.setGsu (applyGroupLevel gf m s).gsu) ∧
    (32 ≤ field gf 16 16 → applyGroupLevel gf m s = s)

/-- Every step keeps the own scope bits, the link scope state and the solo gating at what the tables and the Present peer
lanes give (R80, R81, R83, R84, R86). -/
def Obligations.StepKeepsSoloOk : Prop :=
  ∀ s t : State, SoloOk s → step s = .next t → SoloOk t

/-- Every step keeps the alignment state settled: every settling ends, with each channel at its depth, each own need the
largest depth sent to its bus, each aligned depth the largest need heard (R92, R93, R95, R97). -/
def Obligations.StepKeepsAlignmentOk : Prop :=
  ∀ s t : State, AlignmentOk s → step s = .next t → AlignmentOk t

/-- Where the alignment state is settled, every step keeps each send and slot at its delay target, in force or pending
(R98, R101, R102, R103, R110, R111, R124). -/
def Obligations.StepKeepsDelaysAtTargets : Prop :=
  ∀ s t : State, AlignmentOk s → DelaysOk s → step s = .next t → DelaysOk t

/-- The Overdepth latch (R51, R106, R107). A latched channel stays in Overdepth through every command but a power-on, a pin
reset, a REARM, a STROBE that applies a write to its Source, and a LANE_ARRIVAL in which a Rearm is under way (one collected
before, or one that slot 0 begins). A write to Source clears the latch, whatever is written: the channel is Normal at 0 for an
input or None, at D_s + 1 for a return at 13 or less, and latched again with Overdepth raised for a return at 14, and the
settling follows from there; a write to another parameter or another channel leaves the latch. A REARM of a strip in range
completes. On a Normal channel it is the settling alone, which changes nothing where the state is settled. On a latched one
whose return stands at depth 14 the latch stays and Overdepth is raised. On one that can return, the channel is Normal at D_s +
1 and the settling follows from there: it leaves the channel one deeper than its return, or latches it again with Overdepth
raised; a channel that sends to no bus stays at D_s + 1. No setting moves. -/
def Obligations.OverdepthLatchHoldsUntilRearm : Prop :=
  (∀ (c : Instr) (ch : Chan) (s t : State), alignAt s ch = .overdepth → exec c s = .next t →
    (∀ straps, c ≠ .powerOn straps) → (∀ straps, c ≠ .pinReset straps) → (∀ strip, c ≠ .rearm strip) →
    (∀ p inputs, c = .strobe p inputs → takesChanges s = true →
      let queue := if s.rfr.known = true ∧ (p = s.rfr.position ∨ p.toNat = s.rfr.position.toNat + 1) then s.chs.queue else []
      ∀ x ∈ (queue.takeWhile fun e => decide (e.target.toNat ≤ p.toNat)).map (fun e => e.change) ++ s.chs.due,
        ∀ w, x.change ≠ .strip ch 0 w) →
    (∀ lane rx straps, c = .laneArrival lane rx straps →
      (∀ mark head n soFar, reassemblyAt s lane = .collecting mark head n soFar → headKind head ≠ 7) ∧
      ∀ ws, rx = .words ws → reassemblyAt s lane = .idle → headKind (ws.get 51) ≠ 7) →
    alignAt t ch = .overdepth) ∧
  (∀ (c : Chan) (id : BitVec 16) (w : Word) (s : State),
    let t := applyWrite c id w s
    (∀ n, n ≠ c ∨ id.toNat ≠ 0 → alignAt s n = .overdepth → alignAt t n = .overdepth) ∧
    (id.toNat = 0 →
      let stored := setChannel s c (channelAt t c)
      (∀ i, (channelAt t c).source = .input i →
        t.alu = (settled (setAlign stored c (.normal 0))).1 ∧ alignAt t c = .normal 0) ∧
      ((channelAt t c).source = .none →
        t.alu = (settled (setAlign stored c (.normal 0))).1 ∧ alignAt t c = .normal 0) ∧
      ∀ b, (channelAt t c).source = .busReturn b →
        (∀ d : Depth, d.val = (s.alu.aligned.get b).val + 1 → t.alu = (settled (setAlign stored c (.normal d))).1) ∧
        ((s.alu.aligned.get b).val = 14 →
          t.alu = (settled (setAlign stored c .overdepth)).1 ∧ alignAt t c = .overdepth) ∧
        (alignAt t c = .overdepth → t.stc.conditions.getLsbD 2 = true))) ∧
  ∀ (strip : BitVec 16) (c : Chan) (s : State), s.resetPin = false → takesChanges s = true →
    strip.toNat = s.stc.stripBase + c.val →
    (∃ t, exec (.rearm strip) s = .next t ∧ t.sst = s.sst ∧ t.gsu = s.gsu ∧ t.lif = s.lif ∧ t.chs = s.chs) ∧
    (alignAt s c ≠ .overdepth → exec (.rearm strip) s = .next (settle s) ∧
      (AlignmentOk s → DelaysOk s → exec (.rearm strip) s = .next s)) ∧
    ∀ b : Bus, alignAt s c = .overdepth → (channelAt s c).source = .busReturn b →
      ((s.alu.aligned.get b).val = 14 → AlignmentOk s → DelaysOk s →
        exec (.rearm strip) s = .next (raise .overdepth s)) ∧
      ∀ d : Depth, d.val = (s.alu.aligned.get b).val + 1 → ∃ t, exec (.rearm strip) s = .next t ∧
        t.alu = (settled (setAlign s c (.normal d))).1 ∧ t = settle (setAlign s c (.normal d)) ∧
        (alignAt t c = .overdepth → t.stc.conditions.getLsbD 2 = true) ∧
        (AlignmentOk s → (∀ e, alignAt t c = .normal e → e.val = (t.alu.aligned.get b).val + 1) ∧
          ((∀ k, ((channelAt s c).sends.get k).bus = none) → alignAt t c = .normal d))

/-! ### Switch ramps and the datapath -/

/-- Every step keeps each ramp's factor in agreement with its state, with items pending in Out and Held alone (R113, R116,
R119). -/
def Obligations.StepKeepsRampsOk : Prop :=
  ∀ s t : State, RampsOk s → step s = .next t → RampsOk t

/-- A ramp posted in Steady (R116): thirty-two steps form K = 31 down to 0 in Out, the next applies the pending set and forms
K = 1, thirty-two in all form K = 1 up to 32 in In, and the sixty-fifth is Steady; a Held ramp stands. Every STROBE in Listening,
Joining, Contributing and Silent, but for the entry to Contributing, takes one such step of every channel and slot after the
changes it applies, then forms every coefficient by its glide toward the target standing then, and then enters the sample of
every source in force (R53, R64, R65, R66, R74, R116, R123, R130). -/
def Obligations.SwitchRampRunsSixtyFourFrames : Prop :=
  (∀ p : ChannelPath, p.ramp = { state := .rampOut, k := 32 } →
    (∀ n : Nat, 1 ≤ n → n ≤ 32 → stepPath^[n] p = { p with ramp := { state := .rampOut, k := 32 - n } }) ∧
    (∀ n : Nat, 33 ≤ n → n ≤ 64 → stepPath^[n] p = { applyPending p with ramp := { state := .rampIn, k := n - 32 } }) ∧
    ∀ n : Nat, 65 ≤ n → stepPath^[n] p = { applyPending p with ramp := { state := .steady, k := 32 } }) ∧
  (∀ p : ChannelPath, p.ramp = { state := .held, k := 0 } → stepPath p = p) ∧
  ∀ (position : Position) (inputs : Table 48 Sample) (s : State), s.resetPin = false →
    s.stc.station = .listening ∨ s.stc.station = .joining ∧ s.stc.joiningComplete = false ∨ s.stc.station = .contributing ∨
      s.stc.station = .silent →
    let queue := if s.rfr.known = true ∧ (position = s.rfr.position ∨ position.toNat = s.rfr.position.toNat + 1) then s.chs.queue
      else []
    let changes := if s.stc.station = .silent then []
      else (queue.takeWhile fun e => decide (e.target.toNat ≤ position.toNat)).map (fun e => e.change) ++ s.chs.due
    let u := changes.foldl applyChange s
    ∃ t, exec (.strobe position inputs) s = .next t ∧ t.sst = u.sst ∧ t.gsu = u.gsu ∧ t.alu = u.alu ∧
      (∀ c, let q := stepPath (pathAt u c)
        (pathAt t c).source = q.source ∧ (pathAt t c).ramp = q.ramp ∧ (pathAt t c).pending = q.pending ∧
        (∀ k, (pathAt t c).sends.get k = glideStep (q.sends.get k) (sendTarget t c k)) ∧
        (pathAt t c).meterCoef = meterTarget t c ∧ (pathAt t c).history.get 0 = sourceSample t inputs q.source ∧
        ∀ i : Fin 14, (pathAt t c).history.get i.succ = q.history.get i.castSucc) ∧
      ∀ o, t.mxd.slots.get o = stepSlot (u.mxd.slots.get o)

/-- The application of a pending set (R117, R118, R123), as PENDING_SET_APPLICATION taken by itself (notes/assumptions/20.md)
for a ramp that formed a frame at K = 0 in Out, in Silent while the reference is Lost too, which is the model's choice: each
item replaces the value in force of its place, a changed source clears the history, the set is emptied and the ramp enters In at
K = 1. No coefficient and nothing else moves. -/
def Obligations.PendingSetComesIntoForceWhole : Prop :=
  ∀ s : State, s.resetPin = false → takesFrames s = true →
    (∀ c : Chan, (pathAt s c).ramp = { state := .rampOut, k := 0 } →
      ∃ t, exec (.pendingSetApplication (.channel c)) s = .next t ∧
        (pathAt t c).source = (pathAt s c).pending.source.getD (pathAt s c).source ∧
        (∀ k, ((pathAt t c).sends.get k).bus = ((pathAt s c).pending.buses.get k).getD ((pathAt s c).sends.get k).bus ∧
          ((pathAt t c).sends.get k).delay = ((pathAt s c).pending.delays.get k).getD ((pathAt s c).sends.get k).delay ∧
          ((pathAt t c).sends.get k).coef = ((pathAt s c).sends.get k).coef ∧
          ((pathAt t c).sends.get k).glide = ((pathAt s c).sends.get k).glide) ∧
        ((pathAt t c).source ≠ (pathAt s c).source → (pathAt t c).history = Table.fill 15 0) ∧
        ((pathAt t c).source = (pathAt s c).source → (pathAt t c).history = (pathAt s c).history) ∧
        (pathAt t c).pending = PendingSet.empty ∧ (pathAt t c).ramp = { state := .rampIn, k := 1 } ∧
        (pathAt t c).meterCoef = (pathAt s c).meterCoef ∧
        t = setPath s c (pathAt t c)) ∧
    (∀ o : SlotIx, (s.mxd.slots.get o).ramp = { state := .rampOut, k := 0 } →
      exec (.pendingSetApplication (.slot o)) s = .next { s with mxd := { s.mxd with
        slots := s.mxd.slots.put o { s.mxd.slots.get o with
          delay := (s.mxd.slots.get o).pending.getD (s.mxd.slots.get o).delay
          pending := none
          ramp := { state := .rampIn, k := 1 } } } })

/-- The close of a frame at the next strobe (R127, R128, R129, R131): each total, saturated to 24 bits, enters its bus's
history as the newest sample; each assigned slot gives round(y × K / 32) with the delay and factor of the closed frame, an
unassigned one 0; Clip is raised where a total saturates; where no total stands open nothing is entered. Each slot is carried on
its output port and place (R132). The new frame's totals begin with the own lane words where it is driven in Contributing, with
Clip raised where one of them saturates, and with 0 elsewhere (R73, R125, R126). -/
def Obligations.StrobeClosesFrame : Prop :=
  ∀ (p : Position) (inputs : Table 48 Sample) (s : State), s.resetPin = false → s.stc.station ≠ .booting →
    s.stc.station ≠ .isolated →
    ∃ t, exec (.strobe p inputs) s = .next t ∧
      (s.mxd.totals = none → t.mxd.busHistory = s.mxd.busHistory ∧ t.mxd.outputs = s.mxd.outputs) ∧
      (∀ totals, s.mxd.totals = some totals →
        (∀ b, ((t.mxd.busHistory.get b).get 0).toInt = max (-8388608) (min 8388607 (totals.get b)) ∧
          ∀ i : Fin 14, (t.mxd.busHistory.get b).get i.succ = (s.mxd.busHistory.get b).get i.castSucc) ∧
        (∀ o, (s.mxd.slots.get o).bus = none → t.mxd.outputs.get o = 0) ∧
        (∀ o b, (s.mxd.slots.get o).bus = some b → (s.mxd.slots.get o).ramp.k ≤ 32 →
          (t.mxd.outputs.get o).toInt =
            roundDiv (((t.mxd.busHistory.get b).get (s.mxd.slots.get o).delay).toInt * (s.mxd.slots.get o).ramp.k) 32) ∧
        ((∃ b, totals.get b < -8388608 ∨ 8388607 < totals.get b) → t.stc.conditions.getLsbD 0 = true)) ∧
      (∀ (o : SlotIx) (port : OutPortIx) (place : OutPlaceIx), port.val = o.val / 8 →
        place.val = o.val - 8 * (o.val / 8) → portSample t port place = t.mxd.outputs.get o) ∧
      ∃ next, t.mxd.totals = some next ∧ (t.stc.station ≠ .contributing → ∀ b, next.get b = 0) ∧
        (t.stc.station = .contributing → (∀ b, next.get b = ((laneWords t).get b).toInt) ∧
          (laneClips t = true → t.stc.conditions.getLsbD 0 = true))

/-! ### Messages -/

/-- A lane's reassembly record takes a word (R139) and a lost frame (R140). -/
def Obligations.ReassemblyTakesWordsAndLosses : Prop :=
  ∀ (lane : LaneIx) (straps : BitVec 4) (w : Word) (s : State),
    (reassemblyAt s lane = .idle →
      (w = 0 → takeWord lane straps w s = s) ∧
      (w ≠ 0 → headLength w = 0 → takeWord lane straps w s = completeMessage lane straps w [] s) ∧
      (w ≠ 0 → headLength w ≠ 0 →
        takeWord lane straps w s = setReassembly s lane (.collecting .keep w (headLength w) []))) ∧
    (∀ mark head n soFar, reassemblyAt s lane = .collecting mark head (n + 1) soFar →
      (n ≠ 0 → takeWord lane straps w s = setReassembly s lane (.collecting mark head n (soFar ++ [w]))) ∧
      (n = 0 → mark = .keep →
        takeWord lane straps w s = completeMessage lane straps head (soFar ++ [w]) (setReassembly s lane .idle)) ∧
      (n = 0 → mark = .discard → takeWord lane straps w s = setReassembly s lane .idle) ∧
      reassemblyAt (lostFrame lane s) lane =
        (if 2 ≤ n then .collecting .discard head (n - 1) soFar else .idle)) ∧
    (reassemblyAt s lane = .idle → lostFrame lane s = s) ∧
    (∀ m, m ≠ lane → reassemblyAt (lostFrame lane s) m = reassemblyAt s m) ∧
    lostFrame lane s = { s with mse := (lostFrame lane s).mse } ∧
    (lostFrame lane s).mse = { s.mse with reassembly := (lostFrame lane s).mse.reassembly }

/-- The judgement of a completed message (R137, R142): one of unknown kind, of a length its kind does not require, a Bind
outside 1..4, or a station-addressed one with destination 30 is skipped, with MessageFault raised in Listening, Joining and
Contributing alone; one of a peer outgoing kind is dropped without effect. The rows BIND, CLEAR_CONDITIONS, ROLL_CALL and
STATION_RESET are judged alike. A well-formed message of each incoming kind does what its row does with the fields R138 and R143
read from it (R143 to R150). -/
def Obligations.MalformedMessageIsSkipped : Prop :=
  ∀ (lane : LaneIx) (straps : BitVec 4) (head : Word) (payload : List Word) (s : State),
    let kind := headKind head
    let len := payload.length
    let stamped := if headStamped head then 3 else 2
    let fault := if takesChanges s then raise .messageFault s else s
    (16 ≤ kind → kind ≤ 19 → completeMessage lane straps head payload s = s) ∧
    (kind = 0 ∨ 11 ≤ kind ∧ kind ≤ 15 ∨ 20 ≤ kind → completeMessage lane straps head payload s = fault) ∧
    ((kind = 1 ∨ kind = 3) ∧ len ≠ stamped → completeMessage lane straps head payload s = fault) ∧
    ((kind = 2 ∨ kind = 4 ∨ kind = 5 ∨ kind = 6 ∨ kind = 7 ∨ kind = 8) ∧ len ≠ 1 →
      completeMessage lane straps head payload s = fault) ∧
    ((kind = 9 ∨ kind = 10) ∧ len ≠ 0 → completeMessage lane straps head payload s = fault) ∧
    (kind = 4 → ∀ n, payload = [n] → n.toNat = 0 ∨ 4 < n.toNat → completeMessage lane straps head payload s = fault) ∧
    ((kind = 8 ∧ len = 1 ∨ (kind = 9 ∨ kind = 10) ∧ len = 0) → headDest head = 30 →
      completeMessage lane straps head payload s = fault) ∧
    (s.resetPin = false →
      (∀ n : Word, n.toNat = 0 ∨ 4 < n.toNat → exec (.bind lane n) s = .next fault) ∧
      (∀ mask, exec (.clearConditions 30 mask) s = .next fault) ∧ exec (.rollCall 30) s = .next fault ∧
      exec (.stationReset 30 straps) s = .next fault) ∧
    (s.resetPin = false →
      let does (c : Instr) := exec c s = .next (completeMessage lane straps head payload s)
      let strip (a : Word) := a.extractLsb' 16 16
      let param (a : Word) := a.extractLsb' 0 16
      let dest := head.extractLsb' 19 5
      (∀ a v, payload = [a, v] → head.getLsbD 18 = false →
        (kind = 1 → does (.stripSet lane (strip a) (param a) v none)) ∧ (kind = 3 → does (.groupLevel lane a v none))) ∧
      (∀ a v p, payload = [a, v, p] → head.getLsbD 18 = true →
        (kind = 1 → does (.stripSet lane (strip a) (param a) v (some p))) ∧
        (kind = 3 → does (.groupLevel lane a v (some p)))) ∧
      (∀ a, payload = [a] →
        (kind = 2 → does (.stripQuery lane (strip a) (param a))) ∧ (kind = 4 → does (.bind lane a)) ∧
        (kind = 5 → does (.watch (strip a))) ∧ (kind = 6 → does (.unwatch (strip a))) ∧
        (kind = 7 → does (.rearm (strip a))) ∧ (kind = 8 → does (.clearConditions dest (a.extractLsb' 0 8)))) ∧
      (payload = [] → (kind = 9 → does (.rollCall dest)) ∧ (kind = 10 → does (.stationReset dest straps))))

/-- Every step keeps the transmit classes within their capacities, the message in progress counted (R152, R153). -/
def Obligations.StepKeepsTransmitOk : Prop :=
  ∀ s t : State, TransmitOk s → step s = .next t → TransmitOk t

/-- The words of the four outgoing messages (9.6, R151): the head with kind, length, destination and all else 0, then the fields
of the payload. The slot arbiter (R153): the message in progress goes on with its next word and leaves with its last; else the
waiting message queued first in the lowest non-empty class begins with its head; else the slot is idle. A Meter Answer's head
clears the mark of the entry that holds its strip (R175); that the entry is found by the strip is the model's reading
(notes/assumptions/32.md). -/
def Obligations.ArbiterServesLowestClassFirst : Prop :=
  (∀ s : State, ∃ w1 w2 : Word, announceWords s = [0x83F80000, w1, w2, s.stc.stop.position] ∧
    (s.stc.stripBase ≤ 720 → field w1 16 16 = s.stc.stripBase) ∧ field w1 12 4 = s.stc.nodeId.val ∧
    field w1 8 4 = (match s.stc.resetCause with
      | .powerOn => 1
      | .resetPin => 2
      | .stationReset => 3) ∧ field w1 0 8 = 1 ∧
    field w2 24 8 = (match s.stc.stop.cause with
      | .none => 0
      | .nodeInUse => 1
      | .laneConflict => 2
      | .referenceLoss => 3) ∧
    field w2 16 8 = (match s.stc.stop.left with
      | .none => 0
      | .listening => 1
      | .joining => 2
      | .contributing => 3) ∧ field w2 0 16 = 0) ∧
  (∀ a : StripAnswer, ∃ head : Word, stripAnswerWords a = [head, a.strip ++ a.param, a.value] ∧ field head 27 5 = 17 ∧
    field head 24 3 = 2 ∧ field head 19 5 = a.lane.val ∧ field head 0 19 = 0) ∧
  (∀ a : MeterAnswer, ∃ w : Word, meterAnswerWords a = [0x92F80000, a.strip ++ 0#16, w] ∧
    w.extractLsb' 0 16 = BitVec.ofInt 16 a.steps ∧ w.getLsbD 16 = a.clip ∧ field w 17 15 = 0) ∧
  (∀ n : Notice, noticeWords n = [0x9AF80000, BitVec.ofNat 32 (match n.condition with
    | .clip => 0
    | .inputFault => 1
    | .overdepth => 2
    | .locate => 3
    | .messageFault => 4
    | .queueDegraded => 5
    | .bootFault => 6
    | .laneLoss => 7), n.position]) ∧
  ∀ s : State,
    (∀ cls w ws, s.mse.inProgress = some { cls := cls, rest := w :: ws } →
      fillSlot s = (w, { s with mse := { s.mse with
        inProgress := if ws = [] then none else some { cls := cls, rest := ws } } })) ∧
    (s.mse.inProgress = none →
      (s.mse.announceWaiting = true → ∃ ws, announceWords s = (fillSlot s).1 :: ws ∧
        (fillSlot s).2 = { s with mse := { s.mse with
          announceWaiting := false, inProgress := some { cls := .announce, rest := ws } } }) ∧
      (s.mse.announceWaiting = false → ∀ n ns, s.mse.notices = n :: ns → ∃ ws, noticeWords n = (fillSlot s).1 :: ws ∧
        (fillSlot s).2 = { s with mse := { s.mse with
          notices := ns, inProgress := some { cls := .notice, rest := ws } } }) ∧
      (s.mse.announceWaiting = false → s.mse.notices = [] → ∀ a as, s.mse.stripAnswers = a :: as →
        ∃ ws, stripAnswerWords a = (fillSlot s).1 :: ws ∧ (fillSlot s).2 = { s with mse := { s.mse with
          stripAnswers := as, inProgress := some { cls := .stripAnswer, rest := ws } } }) ∧
      (s.mse.announceWaiting = false → s.mse.notices = [] → s.mse.stripAnswers = [] → ∀ a as,
        s.mse.meterAnswers = a :: as → ∃ ws, meterAnswerWords a = (fillSlot s).1 :: ws ∧
          (fillSlot s).2.mse = { s.mse with
            meterAnswers := as, inProgress := some { cls := .meterAnswer, rest := ws } } ∧
          (∀ e, (fillSlot s).2.mtu.entries.get e = (s.mtu.entries.get e).map fun w =>
            if w.strip = a.strip then { w with waiting := false } else w)) ∧
      (s.mse.announceWaiting = false → s.mse.notices = [] → s.mse.stripAnswers = [] → s.mse.meterAnswers = [] →
        fillSlot s = (0, s)))

/-- CLEAR_CONDITIONS and ROLL_CALL addressed to this station (R143, R148, R149, R152): the flags of the mask are cleared and
nothing else moves; an Announce waits, one and no more, and nothing else moves. A message that R143 does not act on changes
nothing: a station-addressed one for another station, a strip-addressed one out of range, any but a Station Reset in a station
state in which messages are dropped. -/
def Obligations.ClearConditionsAndRollCall : Prop :=
  (∀ (dest : BitVec 5) (mask : Byte) (s : State), s.resetPin = false → dest ≠ 30 →
    (takesChanges s = true ∧ (dest.toNat = s.stc.nodeId.val ∨ dest.toNat = 31) →
      (∃ t, exec (.clearConditions dest mask) s = .next t ∧
        t = { s with stc := { s.stc with conditions := t.stc.conditions } } ∧
        ∀ n : Fin 8, t.stc.conditions.getLsbD n.val = (s.stc.conditions.getLsbD n.val && !mask.getLsbD n.val)) ∧
      exec (.rollCall dest) s = .next { s with mse := { s.mse with announceWaiting := true } }) ∧
    (takesChanges s = false ∨ dest.toNat ≠ s.stc.nodeId.val ∧ dest.toNat ≠ 31 →
      exec (.clearConditions dest mask) s = .next s ∧ exec (.rollCall dest) s = .next s) ∧
    (takesFrames s = false ∨ dest.toNat ≠ s.stc.nodeId.val ∧ dest.toNat ≠ 31 →
      ∀ straps, exec (.stationReset dest straps) s = .next s)) ∧
  ∀ s : State, s.resetPin = false →
    (∀ strip : BitVec 16, takesChanges s = false ∨ strip.toNat < s.stc.stripBase ∨ s.stc.stripBase + 48 ≤ strip.toNat →
      exec (.watch strip) s = .next s ∧ exec (.unwatch strip) s = .next s ∧ exec (.rearm strip) s = .next s ∧
      ∀ lane param, exec (.stripQuery lane strip param) s = .next s) ∧
    (takesChanges s = false → ∀ lane : LaneIx,
      (∀ strip param w stamp, exec (.stripSet lane strip param w stamp) s = .next s) ∧
      (∀ gf m stamp, exec (.groupLevel lane gf m stamp) s = .next s) ∧ ∀ n, exec (.bind lane n) s = .next s)

/-! ### Conditions and meters -/

/-- The numbers of the eight conditions (R177). An occurrence of a condition (R177, R178): its flag is set, whatever the mask
holds, and no other; where the flag was clear, its mask bit is clear and class 1 has room, a Notice with the condition and the
current position joins the end of class 1; where the flag is already set the occurrence changes nothing. The alert line (R36),
outside the time the reset pin is asserted (R33). -/
def Obligations.ConditionsRaiseFlagNoticeAndAlert : Prop :=
  (conditionNumber .clip = 0 ∧ conditionNumber .inputFault = 1 ∧ conditionNumber .overdepth = 2 ∧ conditionNumber .locate = 3 ∧
    conditionNumber .messageFault = 4 ∧ conditionNumber .queueDegraded = 5 ∧ conditionNumber .bootFault = 6 ∧
    conditionNumber .laneLoss = 7) ∧
  (∀ (c : Condition) (s : State),
    (∀ n : Fin 8, (raise c s).stc.conditions.getLsbD n.val =
      (s.stc.conditions.getLsbD n.val || decide (n.val = conditionNumber c))) ∧
    (raise c s).mse.notices = (if s.stc.conditions.getLsbD (conditionNumber c) = false ∧
        s.stc.boot.noticeMask.getLsbD (conditionNumber c) = false ∧
        s.mse.notices.length + inProgressCount s.mse .notice < 8 then
      s.mse.notices ++ [{ condition := c, position := s.rfr.position }] else s.mse.notices) ∧
    raise c s = { s with
      stc := { s.stc with conditions := (raise c s).stc.conditions }
      mse := { s.mse with notices := (raise c s).mse.notices } } ∧
    (s.stc.conditions.getLsbD (conditionNumber c) = true → raise c s = s)) ∧
  ∀ s : State, (s.resetPin = false →
    (alertLine s = true ↔
      s.stc.station = .silent ∨ s.stc.station = .isolated ∨ s.stc.conditions.getLsbD 6 = true)) ∧
    (s.resetPin = true → alertLine s = false)

/-- WATCH (R172) and UNWATCH (R173) of a strip in range. A hit keeps the entries and moves the pointer off the entry it names;
a miss takes the entry the pointer names, removing the Meter Answer that waits for it, and moves the pointer on; an Unwatch
frees the entry that holds the strip and leaves the pointer and class 3. Nothing else moves. -/
def Obligations.WatchTableKeepsHitsReplacesAtPointer : Prop :=
  ∀ (strip : BitVec 16) (c : Chan) (s : State), s.resetPin = false → takesChanges s = true →
    strip.toNat = s.stc.stripBase + c.val →
    (∀ e w, s.mtu.entries.get e = some w → w.strip = strip →
      (∀ f x, s.mtu.entries.get f = some x → x.strip = strip → f = e) →
      exec (.watch strip) s = .next { s with mtu := { s.mtu with
        pointer := if s.mtu.pointer = e then e + 1 else s.mtu.pointer } } ∧
      exec (.unwatch strip) s = .next { s with mtu := { s.mtu with entries := s.mtu.entries.put e none } }) ∧
    ((∀ e w, s.mtu.entries.get e = some w → w.strip ≠ strip) →
      exec (.unwatch strip) s = .next s ∧
      exec (.watch strip) s = .next { s with
        mtu := { s.mtu with
          entries := s.mtu.entries.put s.mtu.pointer
            (some { strip := strip, channel := c, peak := 0, waiting := false })
          pointer := s.mtu.pointer + 1 }
        mse := { s.mse with meterAnswers := match s.mtu.entries.get s.mtu.pointer with
          | some w => if w.waiting then s.mse.meterAnswers.filter fun a => decide (a.strip ≠ w.strip)
            else s.mse.meterAnswers
          | none => s.mse.meterAnswers } })

/-- A Contributing strobe takes the meter samples (R174): the count rises by 1, from 0 at the entry to Contributing, and each
Occupied entry's peak, 0 at the entry, becomes the larger of itself and the magnitude of round(x × C / 2^24), x the newest sample
of its channel's history and C the channel's meter coefficient; where the count reaches 2048 the window ends inside the strobe,
with the readings that are then due (R175). WINDOW_END taken by itself one short of the count (R174, R175,
notes/assumptions/21.md). With class 3 empty each Occupied
entry's reading is queued in entry order with its strip, steps and clip flag, its mark is set and its peak is 0; the count is
back to 0 and nothing else moves. With answers in class 3, each reading in its turn replaces the one that waits for its strip, or
joins the end, or is discarded where the class is full, its mark then left as it was (R152). -/
def Obligations.WindowEndQueuesReadings : Prop :=
  (∀ s : State, s.resetPin = false → s.stc.station = .contributing → s.mtu.windowCount = 2047 → MetersOk s →
    s.mse.meterAnswers = [] → inProgressCount s.mse .meterAnswer = 0 →
    ∃ t, exec .windowEnd s = .next t ∧
      t.mse.meterAnswers = (List.finRange 8).filterMap (fun e => (s.mtu.entries.get e).map fun w =>
        { strip := w.strip, steps := peakSteps w.peak, clip := decide (8388607 < w.peak) }) ∧
      (∀ e, t.mtu.entries.get e = (s.mtu.entries.get e).map fun w => { w with peak := 0, waiting := true }) ∧
      t.mtu.windowCount = 0 ∧ t.mtu.pointer = s.mtu.pointer ∧
      t = { s with mtu := t.mtu, mse := { s.mse with meterAnswers := t.mse.meterAnswers } }) ∧
  (∀ s : State, s.resetPin = false → s.stc.station = .contributing → s.mtu.windowCount = 2047 →
    ∃ t, exec .windowEnd s = .next t ∧ t.mtu.windowCount = 0 ∧ t.mtu.pointer = s.mtu.pointer ∧
      t = { s with mtu := t.mtu, mse := { s.mse with meterAnswers := t.mse.meterAnswers } } ∧
      ∃ class3 : Nat → List MeterAnswer, class3 0 = s.mse.meterAnswers ∧ class3 8 = t.mse.meterAnswers ∧
        ∀ e : EntryIx,
          (s.mtu.entries.get e = none → class3 (e.val + 1) = class3 e.val ∧ t.mtu.entries.get e = none) ∧
          ∀ w, s.mtu.entries.get e = some w →
            let reading : MeterAnswer := { strip := w.strip, steps := peakSteps w.peak, clip := decide (8388607 < w.peak) }
            let waits := ∃ a ∈ class3 e.val, a.strip = w.strip
            let room := (class3 e.val).length + inProgressCount s.mse .meterAnswer < 8
            (waits → class3 (e.val + 1) = (class3 e.val).map (fun a => if a.strip = w.strip then reading else a) ∧
              t.mtu.entries.get e = some { w with peak := 0, waiting := true }) ∧
            (¬ waits → room → class3 (e.val + 1) = class3 e.val ++ [reading] ∧
              t.mtu.entries.get e = some { w with peak := 0, waiting := true }) ∧
            (¬ waits → ¬ room → class3 (e.val + 1) = class3 e.val ∧
              t.mtu.entries.get e = some { w with peak := 0 })) ∧
  ∀ (p : Position) (inputs : Table 48 Sample) (s : State), s.resetPin = false →
    s.stc.station = .contributing ∨ s.stc.station = .joining ∧ s.stc.joiningComplete = true →
    let count := if s.stc.station = .joining then 0 else s.mtu.windowCount
    ∃ t, exec (.strobe p inputs) s = .next t ∧ t.mtu.pointer = s.mtu.pointer ∧
      (let reached (w : WatchEntry) : Nat := max (if s.stc.station = .joining then 0 else w.peak)
          (roundDiv (((pathAt t w.channel).history.get 0).toInt * (pathAt t w.channel).meterCoef) (2 ^ 24)).natAbs
      (∀ e, (t.mtu.entries.get e).map (fun w => (w.strip, w.channel, w.peak)) = (s.mtu.entries.get e).map fun w =>
        (w.strip, w.channel, if count + 1 = 2048 then 0 else reached w)) ∧
      t.mtu.windowCount = (if count + 1 = 2048 then 0 else count + 1) ∧
      (count + 1 = 2048 → MetersOk s → s.mse.meterAnswers = [] →
        ∀ cls rest, s.mse.inProgress = some { cls := cls, rest := rest } → cls ≠ .meterAnswer → 2 ≤ rest.length →
        t.mse.meterAnswers = (List.finRange 8).filterMap (fun e => (s.mtu.entries.get e).map fun w =>
          { strip := w.strip, steps := peakSteps (reached w), clip := decide (8388607 < reached w) })))

/-- The conversion of a window peak (R176): −480 at 0; else with e the leading one bit and m the peak scaled to its octave,
24 × (e − 23) + i for the largest i whose base value does not exceed m; and the clip flag above 8,388,607. -/
def Obligations.PeakStepsAreR176 : Prop :=
  peakSteps 0 = -480 ∧
  (∀ (p e : Nat) (i : Fin 24), 2 ^ e ≤ p → p < 2 ^ (e + 1) → Config.gainBase.get i ≤ p * 2 ^ 16 / 2 ^ e →
    (∀ r : Fin 24, Config.gainBase.get r ≤ p * 2 ^ 16 / 2 ^ e → r ≤ i) →
    peakSteps p = 24 * ((e : Int) - 23) + (i.val : Int)) ∧
  (∀ p : Nat, 1 ≤ p → ∃ (e : Nat) (i : Fin 24), 2 ^ e ≤ p ∧ p < 2 ^ (e + 1) ∧
    Config.gainBase.get i ≤ p * 2 ^ 16 / 2 ^ e ∧ ∀ r : Fin 24, Config.gainBase.get r ≤ p * 2 ^ 16 / 2 ^ e → r ≤ i) ∧
  (∀ p : Nat, p ≤ 2 ^ 27 → peakSteps p ≤ 96) ∧
  ∀ p : Nat, peakClips p = true ↔ 8388607 < p

/-- Every step keeps the Meter Watch Table sound (R171). -/
def Obligations.StepKeepsMetersOk : Prop :=
  ∀ s t : State, MetersOk s → step s = .next t → MetersOk t

/-- The engine right after reset meets every invariant. -/
def Obligations.ResetMeetsInvariants : Prop :=
  ReferenceOk State.reset ∧ LaneTableOk State.reset ∧ SchedulerOk State.reset ∧ SoloOk State.reset ∧
    AlignmentOk State.reset ∧ DelaysOk State.reset ∧ RampsOk State.reset ∧ TransmitOk State.reset ∧ MetersOk State.reset
end

