-- ==== Sys2Proof/Laws/State.lean ====
section
/-! SUPPORT. One lemma for each field and each named update of the state, true by rfl. -/

namespace Sys2Proof.Machine.State

variable (s : State)

@[simp] theorem setStc_stc (x : Stc) : (s.setStc x).stc = x := rfl
@[simp] theorem setStc_lif (x : Stc) : (s.setStc x).lif = s.lif := rfl
@[simp] theorem setStc_rfr (x : Stc) : (s.setStc x).rfr = s.rfr := rfl
@[simp] theorem setStc_mse (x : Stc) : (s.setStc x).mse = s.mse := rfl
@[simp] theorem setStc_chs (x : Stc) : (s.setStc x).chs = s.chs := rfl
@[simp] theorem setStc_sst (x : Stc) : (s.setStc x).sst = s.sst := rfl
@[simp] theorem setStc_gsu (x : Stc) : (s.setStc x).gsu = s.gsu := rfl
@[simp] theorem setStc_alu (x : Stc) : (s.setStc x).alu = s.alu := rfl
@[simp] theorem setStc_mxd (x : Stc) : (s.setStc x).mxd = s.mxd := rfl
@[simp] theorem setStc_mtu (x : Stc) : (s.setStc x).mtu = s.mtu := rfl
@[simp] theorem setStc_resetPin (x : Stc) : (s.setStc x).resetPin = s.resetPin := rfl
@[simp] theorem setStc_pending (x : Stc) : (s.setStc x).pending = s.pending := rfl

@[simp] theorem setLif_stc (x : Lif) : (s.setLif x).stc = s.stc := rfl
@[simp] theorem setLif_lif (x : Lif) : (s.setLif x).lif = x := rfl
@[simp] theorem setLif_rfr (x : Lif) : (s.setLif x).rfr = s.rfr := rfl
@[simp] theorem setLif_mse (x : Lif) : (s.setLif x).mse = s.mse := rfl
@[simp] theorem setLif_chs (x : Lif) : (s.setLif x).chs = s.chs := rfl
@[simp] theorem setLif_sst (x : Lif) : (s.setLif x).sst = s.sst := rfl
@[simp] theorem setLif_gsu (x : Lif) : (s.setLif x).gsu = s.gsu := rfl
@[simp] theorem setLif_alu (x : Lif) : (s.setLif x).alu = s.alu := rfl
@[simp] theorem setLif_mxd (x : Lif) : (s.setLif x).mxd = s.mxd := rfl
@[simp] theorem setLif_mtu (x : Lif) : (s.setLif x).mtu = s.mtu := rfl
@[simp] theorem setLif_resetPin (x : Lif) : (s.setLif x).resetPin = s.resetPin := rfl
@[simp] theorem setLif_pending (x : Lif) : (s.setLif x).pending = s.pending := rfl

@[simp] theorem setRfr_stc (x : Rfr) : (s.setRfr x).stc = s.stc := rfl
@[simp] theorem setRfr_lif (x : Rfr) : (s.setRfr x).lif = s.lif := rfl
@[simp] theorem setRfr_rfr (x : Rfr) : (s.setRfr x).rfr = x := rfl
@[simp] theorem setRfr_mse (x : Rfr) : (s.setRfr x).mse = s.mse := rfl
@[simp] theorem setRfr_chs (x : Rfr) : (s.setRfr x).chs = s.chs := rfl
@[simp] theorem setRfr_sst (x : Rfr) : (s.setRfr x).sst = s.sst := rfl
@[simp] theorem setRfr_gsu (x : Rfr) : (s.setRfr x).gsu = s.gsu := rfl
@[simp] theorem setRfr_alu (x : Rfr) : (s.setRfr x).alu = s.alu := rfl
@[simp] theorem setRfr_mxd (x : Rfr) : (s.setRfr x).mxd = s.mxd := rfl
@[simp] theorem setRfr_mtu (x : Rfr) : (s.setRfr x).mtu = s.mtu := rfl
@[simp] theorem setRfr_resetPin (x : Rfr) : (s.setRfr x).resetPin = s.resetPin := rfl
@[simp] theorem setRfr_pending (x : Rfr) : (s.setRfr x).pending = s.pending := rfl

@[simp] theorem setMse_stc (x : Mse) : (s.setMse x).stc = s.stc := rfl
@[simp] theorem setMse_lif (x : Mse) : (s.setMse x).lif = s.lif := rfl
@[simp] theorem setMse_rfr (x : Mse) : (s.setMse x).rfr = s.rfr := rfl
@[simp] theorem setMse_mse (x : Mse) : (s.setMse x).mse = x := rfl
@[simp] theorem setMse_chs (x : Mse) : (s.setMse x).chs = s.chs := rfl
@[simp] theorem setMse_sst (x : Mse) : (s.setMse x).sst = s.sst := rfl
@[simp] theorem setMse_gsu (x : Mse) : (s.setMse x).gsu = s.gsu := rfl
@[simp] theorem setMse_alu (x : Mse) : (s.setMse x).alu = s.alu := rfl
@[simp] theorem setMse_mxd (x : Mse) : (s.setMse x).mxd = s.mxd := rfl
@[simp] theorem setMse_mtu (x : Mse) : (s.setMse x).mtu = s.mtu := rfl
@[simp] theorem setMse_resetPin (x : Mse) : (s.setMse x).resetPin = s.resetPin := rfl
@[simp] theorem setMse_pending (x : Mse) : (s.setMse x).pending = s.pending := rfl

@[simp] theorem setChs_stc (x : Chs) : (s.setChs x).stc = s.stc := rfl
@[simp] theorem setChs_lif (x : Chs) : (s.setChs x).lif = s.lif := rfl
@[simp] theorem setChs_rfr (x : Chs) : (s.setChs x).rfr = s.rfr := rfl
@[simp] theorem setChs_mse (x : Chs) : (s.setChs x).mse = s.mse := rfl
@[simp] theorem setChs_chs (x : Chs) : (s.setChs x).chs = x := rfl
@[simp] theorem setChs_sst (x : Chs) : (s.setChs x).sst = s.sst := rfl
@[simp] theorem setChs_gsu (x : Chs) : (s.setChs x).gsu = s.gsu := rfl
@[simp] theorem setChs_alu (x : Chs) : (s.setChs x).alu = s.alu := rfl
@[simp] theorem setChs_mxd (x : Chs) : (s.setChs x).mxd = s.mxd := rfl
@[simp] theorem setChs_mtu (x : Chs) : (s.setChs x).mtu = s.mtu := rfl
@[simp] theorem setChs_resetPin (x : Chs) : (s.setChs x).resetPin = s.resetPin := rfl
@[simp] theorem setChs_pending (x : Chs) : (s.setChs x).pending = s.pending := rfl

@[simp] theorem setSst_stc (x : Sst) : (s.setSst x).stc = s.stc := rfl
@[simp] theorem setSst_lif (x : Sst) : (s.setSst x).lif = s.lif := rfl
@[simp] theorem setSst_rfr (x : Sst) : (s.setSst x).rfr = s.rfr := rfl
@[simp] theorem setSst_mse (x : Sst) : (s.setSst x).mse = s.mse := rfl
@[simp] theorem setSst_chs (x : Sst) : (s.setSst x).chs = s.chs := rfl
@[simp] theorem setSst_sst (x : Sst) : (s.setSst x).sst = x := rfl
@[simp] theorem setSst_gsu (x : Sst) : (s.setSst x).gsu = s.gsu := rfl
@[simp] theorem setSst_alu (x : Sst) : (s.setSst x).alu = s.alu := rfl
@[simp] theorem setSst_mxd (x : Sst) : (s.setSst x).mxd = s.mxd := rfl
@[simp] theorem setSst_mtu (x : Sst) : (s.setSst x).mtu = s.mtu := rfl
@[simp] theorem setSst_resetPin (x : Sst) : (s.setSst x).resetPin = s.resetPin := rfl
@[simp] theorem setSst_pending (x : Sst) : (s.setSst x).pending = s.pending := rfl

@[simp] theorem setGsu_stc (x : Gsu) : (s.setGsu x).stc = s.stc := rfl
@[simp] theorem setGsu_lif (x : Gsu) : (s.setGsu x).lif = s.lif := rfl
@[simp] theorem setGsu_rfr (x : Gsu) : (s.setGsu x).rfr = s.rfr := rfl
@[simp] theorem setGsu_mse (x : Gsu) : (s.setGsu x).mse = s.mse := rfl
@[simp] theorem setGsu_chs (x : Gsu) : (s.setGsu x).chs = s.chs := rfl
@[simp] theorem setGsu_sst (x : Gsu) : (s.setGsu x).sst = s.sst := rfl
@[simp] theorem setGsu_gsu (x : Gsu) : (s.setGsu x).gsu = x := rfl
@[simp] theorem setGsu_alu (x : Gsu) : (s.setGsu x).alu = s.alu := rfl
@[simp] theorem setGsu_mxd (x : Gsu) : (s.setGsu x).mxd = s.mxd := rfl
@[simp] theorem setGsu_mtu (x : Gsu) : (s.setGsu x).mtu = s.mtu := rfl
@[simp] theorem setGsu_resetPin (x : Gsu) : (s.setGsu x).resetPin = s.resetPin := rfl
@[simp] theorem setGsu_pending (x : Gsu) : (s.setGsu x).pending = s.pending := rfl

@[simp] theorem setAlu_stc (x : Alu) : (s.setAlu x).stc = s.stc := rfl
@[simp] theorem setAlu_lif (x : Alu) : (s.setAlu x).lif = s.lif := rfl
@[simp] theorem setAlu_rfr (x : Alu) : (s.setAlu x).rfr = s.rfr := rfl
@[simp] theorem setAlu_mse (x : Alu) : (s.setAlu x).mse = s.mse := rfl
@[simp] theorem setAlu_chs (x : Alu) : (s.setAlu x).chs = s.chs := rfl
@[simp] theorem setAlu_sst (x : Alu) : (s.setAlu x).sst = s.sst := rfl
@[simp] theorem setAlu_gsu (x : Alu) : (s.setAlu x).gsu = s.gsu := rfl
@[simp] theorem setAlu_alu (x : Alu) : (s.setAlu x).alu = x := rfl
@[simp] theorem setAlu_mxd (x : Alu) : (s.setAlu x).mxd = s.mxd := rfl
@[simp] theorem setAlu_mtu (x : Alu) : (s.setAlu x).mtu = s.mtu := rfl
@[simp] theorem setAlu_resetPin (x : Alu) : (s.setAlu x).resetPin = s.resetPin := rfl
@[simp] theorem setAlu_pending (x : Alu) : (s.setAlu x).pending = s.pending := rfl

@[simp] theorem setMxd_stc (x : Mxd) : (s.setMxd x).stc = s.stc := rfl
@[simp] theorem setMxd_lif (x : Mxd) : (s.setMxd x).lif = s.lif := rfl
@[simp] theorem setMxd_rfr (x : Mxd) : (s.setMxd x).rfr = s.rfr := rfl
@[simp] theorem setMxd_mse (x : Mxd) : (s.setMxd x).mse = s.mse := rfl
@[simp] theorem setMxd_chs (x : Mxd) : (s.setMxd x).chs = s.chs := rfl
@[simp] theorem setMxd_sst (x : Mxd) : (s.setMxd x).sst = s.sst := rfl
@[simp] theorem setMxd_gsu (x : Mxd) : (s.setMxd x).gsu = s.gsu := rfl
@[simp] theorem setMxd_alu (x : Mxd) : (s.setMxd x).alu = s.alu := rfl
@[simp] theorem setMxd_mxd (x : Mxd) : (s.setMxd x).mxd = x := rfl
@[simp] theorem setMxd_mtu (x : Mxd) : (s.setMxd x).mtu = s.mtu := rfl
@[simp] theorem setMxd_resetPin (x : Mxd) : (s.setMxd x).resetPin = s.resetPin := rfl
@[simp] theorem setMxd_pending (x : Mxd) : (s.setMxd x).pending = s.pending := rfl

@[simp] theorem setMtu_stc (x : Mtu) : (s.setMtu x).stc = s.stc := rfl
@[simp] theorem setMtu_lif (x : Mtu) : (s.setMtu x).lif = s.lif := rfl
@[simp] theorem setMtu_rfr (x : Mtu) : (s.setMtu x).rfr = s.rfr := rfl
@[simp] theorem setMtu_mse (x : Mtu) : (s.setMtu x).mse = s.mse := rfl
@[simp] theorem setMtu_chs (x : Mtu) : (s.setMtu x).chs = s.chs := rfl
@[simp] theorem setMtu_sst (x : Mtu) : (s.setMtu x).sst = s.sst := rfl
@[simp] theorem setMtu_gsu (x : Mtu) : (s.setMtu x).gsu = s.gsu := rfl
@[simp] theorem setMtu_alu (x : Mtu) : (s.setMtu x).alu = s.alu := rfl
@[simp] theorem setMtu_mxd (x : Mtu) : (s.setMtu x).mxd = s.mxd := rfl
@[simp] theorem setMtu_mtu (x : Mtu) : (s.setMtu x).mtu = x := rfl
@[simp] theorem setMtu_resetPin (x : Mtu) : (s.setMtu x).resetPin = s.resetPin := rfl
@[simp] theorem setMtu_pending (x : Mtu) : (s.setMtu x).pending = s.pending := rfl

@[simp] theorem setResetPin_stc (x : Bool) : (s.setResetPin x).stc = s.stc := rfl
@[simp] theorem setResetPin_lif (x : Bool) : (s.setResetPin x).lif = s.lif := rfl
@[simp] theorem setResetPin_rfr (x : Bool) : (s.setResetPin x).rfr = s.rfr := rfl
@[simp] theorem setResetPin_mse (x : Bool) : (s.setResetPin x).mse = s.mse := rfl
@[simp] theorem setResetPin_chs (x : Bool) : (s.setResetPin x).chs = s.chs := rfl
@[simp] theorem setResetPin_sst (x : Bool) : (s.setResetPin x).sst = s.sst := rfl
@[simp] theorem setResetPin_gsu (x : Bool) : (s.setResetPin x).gsu = s.gsu := rfl
@[simp] theorem setResetPin_alu (x : Bool) : (s.setResetPin x).alu = s.alu := rfl
@[simp] theorem setResetPin_mxd (x : Bool) : (s.setResetPin x).mxd = s.mxd := rfl
@[simp] theorem setResetPin_mtu (x : Bool) : (s.setResetPin x).mtu = s.mtu := rfl
@[simp] theorem setResetPin_resetPin (x : Bool) : (s.setResetPin x).resetPin = x := rfl
@[simp] theorem setResetPin_pending (x : Bool) : (s.setResetPin x).pending = s.pending := rfl

@[simp] theorem setPending_stc (x : List Instr) : (s.setPending x).stc = s.stc := rfl
@[simp] theorem setPending_lif (x : List Instr) : (s.setPending x).lif = s.lif := rfl
@[simp] theorem setPending_rfr (x : List Instr) : (s.setPending x).rfr = s.rfr := rfl
@[simp] theorem setPending_mse (x : List Instr) : (s.setPending x).mse = s.mse := rfl
@[simp] theorem setPending_chs (x : List Instr) : (s.setPending x).chs = s.chs := rfl
@[simp] theorem setPending_sst (x : List Instr) : (s.setPending x).sst = s.sst := rfl
@[simp] theorem setPending_gsu (x : List Instr) : (s.setPending x).gsu = s.gsu := rfl
@[simp] theorem setPending_alu (x : List Instr) : (s.setPending x).alu = s.alu := rfl
@[simp] theorem setPending_mxd (x : List Instr) : (s.setPending x).mxd = s.mxd := rfl
@[simp] theorem setPending_mtu (x : List Instr) : (s.setPending x).mtu = s.mtu := rfl
@[simp] theorem setPending_resetPin (x : List Instr) : (s.setPending x).resetPin = s.resetPin := rfl
@[simp] theorem setPending_pending (x : List Instr) : (s.setPending x).pending = x := rfl

@[simp] theorem setStc_setStc (x y : Stc) : (s.setStc x).setStc y = s.setStc y := rfl
@[simp] theorem setLif_setLif (x y : Lif) : (s.setLif x).setLif y = s.setLif y := rfl
@[simp] theorem setRfr_setRfr (x y : Rfr) : (s.setRfr x).setRfr y = s.setRfr y := rfl
@[simp] theorem setMse_setMse (x y : Mse) : (s.setMse x).setMse y = s.setMse y := rfl
@[simp] theorem setChs_setChs (x y : Chs) : (s.setChs x).setChs y = s.setChs y := rfl
@[simp] theorem setSst_setSst (x y : Sst) : (s.setSst x).setSst y = s.setSst y := rfl
@[simp] theorem setGsu_setGsu (x y : Gsu) : (s.setGsu x).setGsu y = s.setGsu y := rfl
@[simp] theorem setAlu_setAlu (x y : Alu) : (s.setAlu x).setAlu y = s.setAlu y := rfl
@[simp] theorem setMxd_setMxd (x y : Mxd) : (s.setMxd x).setMxd y = s.setMxd y := rfl
@[simp] theorem setMtu_setMtu (x y : Mtu) : (s.setMtu x).setMtu y = s.setMtu y := rfl
@[simp] theorem setResetPin_setResetPin (x y : Bool) : (s.setResetPin x).setResetPin y = s.setResetPin y := rfl
@[simp] theorem setPending_setPending (x y : List Instr) : (s.setPending x).setPending y = s.setPending y := rfl
@[simp] theorem setStc_self : s.setStc s.stc = s := rfl
@[simp] theorem setLif_self : s.setLif s.lif = s := rfl
@[simp] theorem setRfr_self : s.setRfr s.rfr = s := rfl
@[simp] theorem setMse_self : s.setMse s.mse = s := rfl
@[simp] theorem setChs_self : s.setChs s.chs = s := rfl
@[simp] theorem setSst_self : s.setSst s.sst = s := rfl
@[simp] theorem setGsu_self : s.setGsu s.gsu = s := rfl
@[simp] theorem setAlu_self : s.setAlu s.alu = s := rfl
@[simp] theorem setMxd_self : s.setMxd s.mxd = s := rfl
@[simp] theorem setMtu_self : s.setMtu s.mtu = s := rfl
@[simp] theorem setResetPin_self : s.setResetPin s.resetPin = s := rfl
@[simp] theorem setPending_self : s.setPending s.pending = s := rfl

end Sys2Proof.Machine.State
end

