-- ==== Sys2Proof/Laws/Frames.lean ====
section
/-! SUPPORT. What each shared operation leaves as it is, one lemma for each operation: the blocks it does not write. -/

namespace Sys2Proof.Machine

/-- A fold of steps that each keep a reading of the state keeps it. -/
theorem foldl_keeps {α β : Type} {P : State → α} {f : State → β → State} (h : ∀ s x, P (f s x) = P s) (l : List β)
    (s : State) : P (l.foldl f s) = P s := by
  induction l generalizing s with
  | nil => rfl
  | cons x l ih => rw [List.foldl_cons, ih, h]

/-! ### Tables -/

@[simp] theorem setChannel_keeps (c : Chan) (r : ChannelRecord) (s : State) :
    (setChannel s c r).stc = s.stc ∧ (setChannel s c r).lif = s.lif ∧ (setChannel s c r).rfr = s.rfr ∧
    (setChannel s c r).mse = s.mse ∧ (setChannel s c r).chs = s.chs ∧ (setChannel s c r).gsu = s.gsu ∧
    (setChannel s c r).alu = s.alu ∧ (setChannel s c r).mxd = s.mxd ∧ (setChannel s c r).mtu = s.mtu ∧
    (setChannel s c r).resetPin = s.resetPin ∧ (setChannel s c r).pending = s.pending := by
  simp [setChannel]

@[simp] theorem setPath_keeps (c : Chan) (p : ChannelPath) (s : State) :
    (setPath s c p).stc = s.stc ∧ (setPath s c p).lif = s.lif ∧ (setPath s c p).rfr = s.rfr ∧
    (setPath s c p).mse = s.mse ∧ (setPath s c p).chs = s.chs ∧ (setPath s c p).sst = s.sst ∧
    (setPath s c p).gsu = s.gsu ∧ (setPath s c p).alu = s.alu ∧ (setPath s c p).mtu = s.mtu ∧
    (setPath s c p).resetPin = s.resetPin ∧ (setPath s c p).pending = s.pending := by
  simp [setPath]

@[simp] theorem setAlign_keeps (c : Chan) (a : Align) (s : State) :
    (setAlign s c a).stc = s.stc ∧ (setAlign s c a).lif = s.lif ∧ (setAlign s c a).rfr = s.rfr ∧
    (setAlign s c a).mse = s.mse ∧ (setAlign s c a).chs = s.chs ∧ (setAlign s c a).sst = s.sst ∧
    (setAlign s c a).gsu = s.gsu ∧ (setAlign s c a).mxd = s.mxd ∧ (setAlign s c a).mtu = s.mtu ∧
    (setAlign s c a).resetPin = s.resetPin ∧ (setAlign s c a).pending = s.pending := by
  simp [setAlign]

@[simp] theorem setLane_keeps (n : LaneIx) (r : LaneRecord) (s : State) :
    (setLane s n r).stc = s.stc ∧ (setLane s n r).rfr = s.rfr ∧ (setLane s n r).mse = s.mse ∧
    (setLane s n r).chs = s.chs ∧ (setLane s n r).sst = s.sst ∧ (setLane s n r).gsu = s.gsu ∧
    (setLane s n r).alu = s.alu ∧ (setLane s n r).mxd = s.mxd ∧ (setLane s n r).mtu = s.mtu ∧
    (setLane s n r).resetPin = s.resetPin ∧ (setLane s n r).pending = s.pending := by
  simp [setLane]

@[simp] theorem setReassembly_keeps (n : LaneIx) (r : Reassembly) (s : State) :
    (setReassembly s n r).stc = s.stc ∧ (setReassembly s n r).lif = s.lif ∧ (setReassembly s n r).rfr = s.rfr ∧
    (setReassembly s n r).mse.announceWaiting = s.mse.announceWaiting ∧
    (setReassembly s n r).mse.notices = s.mse.notices ∧ (setReassembly s n r).mse.stripAnswers = s.mse.stripAnswers ∧
    (setReassembly s n r).mse.meterAnswers = s.mse.meterAnswers ∧
    (setReassembly s n r).mse.inProgress = s.mse.inProgress ∧ (setReassembly s n r).chs = s.chs ∧
    (setReassembly s n r).sst = s.sst ∧ (setReassembly s n r).gsu = s.gsu ∧ (setReassembly s n r).alu = s.alu ∧
    (setReassembly s n r).mxd = s.mxd ∧ (setReassembly s n r).mtu = s.mtu ∧ (setReassembly s n r).resetPin = s.resetPin ∧
    (setReassembly s n r).pending = s.pending := by
  simp [setReassembly]

@[simp] theorem setCollection_keeps (n : LaneIx) (b : BindCollection) (s : State) :
    (setCollection s n b).stc = s.stc ∧ (setCollection s n b).lif = s.lif ∧ (setCollection s n b).rfr = s.rfr ∧
    (setCollection s n b).mse = s.mse ∧ (setCollection s n b).sst = s.sst ∧ (setCollection s n b).gsu = s.gsu ∧
    (setCollection s n b).alu = s.alu ∧ (setCollection s n b).mxd = s.mxd ∧ (setCollection s n b).mtu = s.mtu ∧
    (setCollection s n b).resetPin = s.resetPin ∧ (setCollection s n b).pending = s.pending := by
  simp [setCollection]

/-! ### Messages out and conditions -/

@[simp] theorem queueAnnounce_keeps (s : State) :
    (queueAnnounce s).stc = s.stc ∧ (queueAnnounce s).lif = s.lif ∧ (queueAnnounce s).rfr = s.rfr ∧
    (queueAnnounce s).mse.reassembly = s.mse.reassembly ∧ (queueAnnounce s).mse.notices = s.mse.notices ∧
    (queueAnnounce s).mse.stripAnswers = s.mse.stripAnswers ∧ (queueAnnounce s).mse.meterAnswers = s.mse.meterAnswers ∧
    (queueAnnounce s).mse.inProgress = s.mse.inProgress ∧ (queueAnnounce s).chs = s.chs ∧ (queueAnnounce s).sst = s.sst ∧
    (queueAnnounce s).gsu = s.gsu ∧ (queueAnnounce s).alu = s.alu ∧ (queueAnnounce s).mxd = s.mxd ∧
    (queueAnnounce s).mtu = s.mtu ∧ (queueAnnounce s).resetPin = s.resetPin ∧ (queueAnnounce s).pending = s.pending := by
  simp [queueAnnounce]

@[simp] theorem queueNotice_keeps (n : Notice) (s : State) :
    (queueNotice n s).stc = s.stc ∧ (queueNotice n s).lif = s.lif ∧ (queueNotice n s).rfr = s.rfr ∧
    (queueNotice n s).mse.reassembly = s.mse.reassembly ∧ (queueNotice n s).mse.announceWaiting = s.mse.announceWaiting ∧
    (queueNotice n s).mse.stripAnswers = s.mse.stripAnswers ∧ (queueNotice n s).mse.meterAnswers = s.mse.meterAnswers ∧
    (queueNotice n s).mse.inProgress = s.mse.inProgress ∧ (queueNotice n s).chs = s.chs ∧ (queueNotice n s).sst = s.sst ∧
    (queueNotice n s).gsu = s.gsu ∧ (queueNotice n s).alu = s.alu ∧ (queueNotice n s).mxd = s.mxd ∧
    (queueNotice n s).mtu = s.mtu ∧ (queueNotice n s).resetPin = s.resetPin ∧ (queueNotice n s).pending = s.pending := by
  unfold queueNotice; split <;> simp

@[simp] theorem queueStripAnswer_keeps (a : StripAnswer) (s : State) :
    (queueStripAnswer a s).stc = s.stc ∧ (queueStripAnswer a s).lif = s.lif ∧ (queueStripAnswer a s).rfr = s.rfr ∧
    (queueStripAnswer a s).mse.reassembly = s.mse.reassembly ∧
    (queueStripAnswer a s).mse.announceWaiting = s.mse.announceWaiting ∧
    (queueStripAnswer a s).mse.notices = s.mse.notices ∧ (queueStripAnswer a s).mse.meterAnswers = s.mse.meterAnswers ∧
    (queueStripAnswer a s).mse.inProgress = s.mse.inProgress ∧ (queueStripAnswer a s).chs = s.chs ∧
    (queueStripAnswer a s).sst = s.sst ∧ (queueStripAnswer a s).gsu = s.gsu ∧ (queueStripAnswer a s).alu = s.alu ∧
    (queueStripAnswer a s).mxd = s.mxd ∧ (queueStripAnswer a s).mtu = s.mtu ∧
    (queueStripAnswer a s).resetPin = s.resetPin ∧ (queueStripAnswer a s).pending = s.pending := by
  unfold queueStripAnswer; split <;> simp

@[simp] theorem queueMeterAnswer_keeps (a : MeterAnswer) (s : State) :
    (queueMeterAnswer a s).stc = s.stc ∧ (queueMeterAnswer a s).lif = s.lif ∧ (queueMeterAnswer a s).rfr = s.rfr ∧
    (queueMeterAnswer a s).mse.reassembly = s.mse.reassembly ∧
    (queueMeterAnswer a s).mse.announceWaiting = s.mse.announceWaiting ∧
    (queueMeterAnswer a s).mse.notices = s.mse.notices ∧ (queueMeterAnswer a s).mse.stripAnswers = s.mse.stripAnswers ∧
    (queueMeterAnswer a s).mse.inProgress = s.mse.inProgress ∧ (queueMeterAnswer a s).chs = s.chs ∧
    (queueMeterAnswer a s).sst = s.sst ∧ (queueMeterAnswer a s).gsu = s.gsu ∧ (queueMeterAnswer a s).alu = s.alu ∧
    (queueMeterAnswer a s).mxd = s.mxd ∧ (queueMeterAnswer a s).mtu = s.mtu ∧
    (queueMeterAnswer a s).resetPin = s.resetPin ∧ (queueMeterAnswer a s).pending = s.pending := by
  unfold queueMeterAnswer; split
  · simp
  · split <;> simp

@[simp] theorem dropMeterAnswer_keeps (strip : BitVec 16) (s : State) :
    (dropMeterAnswer strip s).stc = s.stc ∧ (dropMeterAnswer strip s).lif = s.lif ∧
    (dropMeterAnswer strip s).rfr = s.rfr ∧ (dropMeterAnswer strip s).mse.reassembly = s.mse.reassembly ∧
    (dropMeterAnswer strip s).mse.announceWaiting = s.mse.announceWaiting ∧
    (dropMeterAnswer strip s).mse.notices = s.mse.notices ∧
    (dropMeterAnswer strip s).mse.stripAnswers = s.mse.stripAnswers ∧
    (dropMeterAnswer strip s).mse.inProgress = s.mse.inProgress ∧ (dropMeterAnswer strip s).chs = s.chs ∧
    (dropMeterAnswer strip s).sst = s.sst ∧ (dropMeterAnswer strip s).gsu = s.gsu ∧
    (dropMeterAnswer strip s).alu = s.alu ∧ (dropMeterAnswer strip s).mxd = s.mxd ∧
    (dropMeterAnswer strip s).mtu = s.mtu ∧ (dropMeterAnswer strip s).resetPin = s.resetPin ∧
    (dropMeterAnswer strip s).pending = s.pending := by
  simp [dropMeterAnswer]

@[simp] theorem emptyClasses_keeps (s : State) :
    (emptyClasses s).stc = s.stc ∧ (emptyClasses s).lif = s.lif ∧ (emptyClasses s).rfr = s.rfr ∧
    (emptyClasses s).mse.reassembly = s.mse.reassembly ∧ (emptyClasses s).chs = s.chs ∧ (emptyClasses s).sst = s.sst ∧
    (emptyClasses s).gsu = s.gsu ∧ (emptyClasses s).alu = s.alu ∧ (emptyClasses s).mxd = s.mxd ∧
    (emptyClasses s).mtu = s.mtu ∧ (emptyClasses s).resetPin = s.resetPin ∧ (emptyClasses s).pending = s.pending := by
  simp [emptyClasses]

@[simp] theorem discardInProgress_keeps (s : State) :
    (discardInProgress s).stc = s.stc ∧ (discardInProgress s).lif = s.lif ∧ (discardInProgress s).rfr = s.rfr ∧
    (discardInProgress s).mse.reassembly = s.mse.reassembly ∧
    (discardInProgress s).mse.announceWaiting = s.mse.announceWaiting ∧
    (discardInProgress s).mse.notices = s.mse.notices ∧ (discardInProgress s).mse.stripAnswers = s.mse.stripAnswers ∧
    (discardInProgress s).mse.meterAnswers = s.mse.meterAnswers ∧ (discardInProgress s).chs = s.chs ∧
    (discardInProgress s).sst = s.sst ∧ (discardInProgress s).gsu = s.gsu ∧ (discardInProgress s).alu = s.alu ∧
    (discardInProgress s).mxd = s.mxd ∧ (discardInProgress s).mtu = s.mtu ∧ (discardInProgress s).resetPin = s.resetPin ∧
    (discardInProgress s).pending = s.pending := by
  simp [discardInProgress]

@[simp] theorem clearWaitingMark_keeps (strip : BitVec 16) (s : State) :
    (clearWaitingMark strip s).stc = s.stc ∧ (clearWaitingMark strip s).lif = s.lif ∧
    (clearWaitingMark strip s).rfr = s.rfr ∧ (clearWaitingMark strip s).mse = s.mse ∧
    (clearWaitingMark strip s).chs = s.chs ∧ (clearWaitingMark strip s).sst = s.sst ∧
    (clearWaitingMark strip s).gsu = s.gsu ∧ (clearWaitingMark strip s).alu = s.alu ∧
    (clearWaitingMark strip s).mxd = s.mxd ∧ (clearWaitingMark strip s).resetPin = s.resetPin ∧
    (clearWaitingMark strip s).pending = s.pending := by
  simp [clearWaitingMark]

@[simp] theorem raise_keeps (c : Condition) (s : State) :
    (raise c s).stc.station = s.stc.station ∧ (raise c s).stc.nodeId = s.stc.nodeId ∧
    (raise c s).stc.stripBase = s.stc.stripBase ∧ (raise c s).stc.boot = s.stc.boot ∧
    (raise c s).stc.resetCause = s.stc.resetCause ∧ (raise c s).stc.stop = s.stc.stop ∧
    (raise c s).stc.listeningCount = s.stc.listeningCount ∧ (raise c s).stc.joiningComplete = s.stc.joiningComplete ∧
    (raise c s).lif = s.lif ∧ (raise c s).rfr = s.rfr ∧ (raise c s).mse.reassembly = s.mse.reassembly ∧
    (raise c s).mse.announceWaiting = s.mse.announceWaiting ∧ (raise c s).mse.stripAnswers = s.mse.stripAnswers ∧
    (raise c s).mse.meterAnswers = s.mse.meterAnswers ∧ (raise c s).mse.inProgress = s.mse.inProgress ∧
    (raise c s).chs = s.chs ∧ (raise c s).sst = s.sst ∧ (raise c s).gsu = s.gsu ∧ (raise c s).alu = s.alu ∧
    (raise c s).mxd = s.mxd ∧ (raise c s).mtu = s.mtu ∧ (raise c s).resetPin = s.resetPin ∧
    (raise c s).pending = s.pending := by
  unfold raise; dsimp only; split <;> simp

@[simp] theorem raiseIf_keeps (b : Bool) (c : Condition) (s : State) :
    (raiseIf b c s).stc.station = s.stc.station ∧ (raiseIf b c s).stc.nodeId = s.stc.nodeId ∧
    (raiseIf b c s).stc.stripBase = s.stc.stripBase ∧ (raiseIf b c s).stc.boot = s.stc.boot ∧
    (raiseIf b c s).stc.resetCause = s.stc.resetCause ∧ (raiseIf b c s).stc.stop = s.stc.stop ∧
    (raiseIf b c s).stc.listeningCount = s.stc.listeningCount ∧
    (raiseIf b c s).stc.joiningComplete = s.stc.joiningComplete ∧ (raiseIf b c s).lif = s.lif ∧
    (raiseIf b c s).rfr = s.rfr ∧ (raiseIf b c s).mse.reassembly = s.mse.reassembly ∧
    (raiseIf b c s).mse.announceWaiting = s.mse.announceWaiting ∧ (raiseIf b c s).mse.stripAnswers = s.mse.stripAnswers ∧
    (raiseIf b c s).mse.meterAnswers = s.mse.meterAnswers ∧ (raiseIf b c s).mse.inProgress = s.mse.inProgress ∧
    (raiseIf b c s).chs = s.chs ∧ (raiseIf b c s).sst = s.sst ∧ (raiseIf b c s).gsu = s.gsu ∧
    (raiseIf b c s).alu = s.alu ∧ (raiseIf b c s).mxd = s.mxd ∧ (raiseIf b c s).mtu = s.mtu ∧
    (raiseIf b c s).resetPin = s.resetPin ∧ (raiseIf b c s).pending = s.pending := by
  unfold raiseIf; split <;> simp

@[simp] theorem messageFault_keeps (s : State) :
    (messageFault s).stc.station = s.stc.station ∧ (messageFault s).stc.nodeId = s.stc.nodeId ∧
    (messageFault s).stc.stripBase = s.stc.stripBase ∧ (messageFault s).stc.boot = s.stc.boot ∧
    (messageFault s).stc.resetCause = s.stc.resetCause ∧ (messageFault s).stc.stop = s.stc.stop ∧
    (messageFault s).stc.listeningCount = s.stc.listeningCount ∧
    (messageFault s).stc.joiningComplete = s.stc.joiningComplete ∧ (messageFault s).lif = s.lif ∧
    (messageFault s).rfr = s.rfr ∧ (messageFault s).mse.reassembly = s.mse.reassembly ∧
    (messageFault s).mse.announceWaiting = s.mse.announceWaiting ∧
    (messageFault s).mse.stripAnswers = s.mse.stripAnswers ∧ (messageFault s).mse.meterAnswers = s.mse.meterAnswers ∧
    (messageFault s).mse.inProgress = s.mse.inProgress ∧ (messageFault s).chs = s.chs ∧ (messageFault s).sst = s.sst ∧
    (messageFault s).gsu = s.gsu ∧ (messageFault s).alu = s.alu ∧ (messageFault s).mxd = s.mxd ∧
    (messageFault s).mtu = s.mtu ∧ (messageFault s).resetPin = s.resetPin ∧ (messageFault s).pending = s.pending := by
  simp [messageFault]

@[simp] theorem clearFlags_keeps (mask : Byte) (s : State) :
    (clearFlags mask s).stc.station = s.stc.station ∧ (clearFlags mask s).stc.nodeId = s.stc.nodeId ∧
    (clearFlags mask s).stc.stripBase = s.stc.stripBase ∧ (clearFlags mask s).stc.boot = s.stc.boot ∧
    (clearFlags mask s).stc.resetCause = s.stc.resetCause ∧ (clearFlags mask s).stc.stop = s.stc.stop ∧
    (clearFlags mask s).stc.listeningCount = s.stc.listeningCount ∧
    (clearFlags mask s).stc.joiningComplete = s.stc.joiningComplete ∧ (clearFlags mask s).lif = s.lif ∧
    (clearFlags mask s).rfr = s.rfr ∧ (clearFlags mask s).mse = s.mse ∧ (clearFlags mask s).chs = s.chs ∧
    (clearFlags mask s).sst = s.sst ∧ (clearFlags mask s).gsu = s.gsu ∧ (clearFlags mask s).alu = s.alu ∧
    (clearFlags mask s).mxd = s.mxd ∧ (clearFlags mask s).mtu = s.mtu ∧ (clearFlags mask s).resetPin = s.resetPin ∧
    (clearFlags mask s).pending = s.pending := by
  simp [clearFlags]

/-! ### Gain, solo, ramps, alignment -/

@[simp] theorem formCoefficients_keeps (s : State) :
    (formCoefficients s).stc = s.stc ∧ (formCoefficients s).lif = s.lif ∧ (formCoefficients s).rfr = s.rfr ∧
    (formCoefficients s).mse = s.mse ∧ (formCoefficients s).chs = s.chs ∧ (formCoefficients s).sst = s.sst ∧
    (formCoefficients s).gsu = s.gsu ∧ (formCoefficients s).alu = s.alu ∧ (formCoefficients s).mtu = s.mtu ∧
    (formCoefficients s).resetPin = s.resetPin ∧ (formCoefficients s).pending = s.pending := by
  simp [formCoefficients]

@[simp] theorem evalOwnScopes_keeps (s : State) :
    (evalOwnScopes s).stc = s.stc ∧ (evalOwnScopes s).lif = s.lif ∧ (evalOwnScopes s).rfr = s.rfr ∧
    (evalOwnScopes s).mse = s.mse ∧ (evalOwnScopes s).chs = s.chs ∧ (evalOwnScopes s).sst = s.sst ∧
    (evalOwnScopes s).gsu.groups = s.gsu.groups ∧ (evalOwnScopes s).alu = s.alu ∧ (evalOwnScopes s).mxd = s.mxd ∧
    (evalOwnScopes s).mtu = s.mtu ∧ (evalOwnScopes s).resetPin = s.resetPin ∧ (evalOwnScopes s).pending = s.pending := by
  simp [evalOwnScopes]

@[simp] theorem evalGating_keeps (s : State) :
    (evalGating s).stc = s.stc ∧ (evalGating s).lif = s.lif ∧ (evalGating s).rfr = s.rfr ∧ (evalGating s).mse = s.mse ∧
    (evalGating s).chs = s.chs ∧ (evalGating s).sst = s.sst ∧ (evalGating s).gsu.groups = s.gsu.groups ∧
    (evalGating s).alu = s.alu ∧ (evalGating s).mxd = s.mxd ∧ (evalGating s).mtu = s.mtu ∧
    (evalGating s).resetPin = s.resetPin ∧ (evalGating s).pending = s.pending := by
  simp [evalGating]

@[simp] theorem evalLinkScopes_keeps (s : State) :
    (evalLinkScopes s).stc = s.stc ∧ (evalLinkScopes s).lif = s.lif ∧ (evalLinkScopes s).rfr = s.rfr ∧
    (evalLinkScopes s).mse = s.mse ∧ (evalLinkScopes s).chs = s.chs ∧ (evalLinkScopes s).sst = s.sst ∧
    (evalLinkScopes s).gsu.groups = s.gsu.groups ∧ (evalLinkScopes s).alu = s.alu ∧ (evalLinkScopes s).mxd = s.mxd ∧
    (evalLinkScopes s).mtu = s.mtu ∧ (evalLinkScopes s).resetPin = s.resetPin ∧ (evalLinkScopes s).pending = s.pending := by
  simp [evalLinkScopes]

@[simp] theorem evalSolo_keeps (s : State) :
    (evalSolo s).stc = s.stc ∧ (evalSolo s).lif = s.lif ∧ (evalSolo s).rfr = s.rfr ∧ (evalSolo s).mse = s.mse ∧
    (evalSolo s).chs = s.chs ∧ (evalSolo s).sst = s.sst ∧ (evalSolo s).gsu.groups = s.gsu.groups ∧
    (evalSolo s).alu = s.alu ∧ (evalSolo s).mxd = s.mxd ∧ (evalSolo s).mtu = s.mtu ∧ (evalSolo s).resetPin = s.resetPin ∧
    (evalSolo s).pending = s.pending := by
  simp [evalSolo]

@[simp] theorem applyGroupLevel_keeps (gf m : Word) (s : State) :
    (applyGroupLevel gf m s).stc = s.stc ∧ (applyGroupLevel gf m s).lif = s.lif ∧ (applyGroupLevel gf m s).rfr = s.rfr ∧
    (applyGroupLevel gf m s).mse = s.mse ∧ (applyGroupLevel gf m s).chs = s.chs ∧ (applyGroupLevel gf m s).sst = s.sst ∧
    (applyGroupLevel gf m s).alu = s.alu ∧ (applyGroupLevel gf m s).mxd = s.mxd ∧ (applyGroupLevel gf m s).mtu = s.mtu ∧
    (applyGroupLevel gf m s).resetPin = s.resetPin ∧ (applyGroupLevel gf m s).pending = s.pending := by
  unfold applyGroupLevel; split <;> simp

@[simp] theorem mapPaths_keeps (f : ChannelPath → ChannelPath) (g : SlotPath → SlotPath) (s : State) :
    (mapPaths f g s).stc = s.stc ∧ (mapPaths f g s).lif = s.lif ∧ (mapPaths f g s).rfr = s.rfr ∧
    (mapPaths f g s).mse = s.mse ∧ (mapPaths f g s).chs = s.chs ∧ (mapPaths f g s).sst = s.sst ∧
    (mapPaths f g s).gsu = s.gsu ∧ (mapPaths f g s).alu = s.alu ∧ (mapPaths f g s).mtu = s.mtu ∧
    (mapPaths f g s).resetPin = s.resetPin ∧ (mapPaths f g s).pending = s.pending := by
  simp [mapPaths]

@[simp] theorem stepRamps_keeps (s : State) :
    (stepRamps s).stc = s.stc ∧ (stepRamps s).lif = s.lif ∧ (stepRamps s).rfr = s.rfr ∧ (stepRamps s).mse = s.mse ∧
    (stepRamps s).chs = s.chs ∧ (stepRamps s).sst = s.sst ∧ (stepRamps s).gsu = s.gsu ∧ (stepRamps s).alu = s.alu ∧
    (stepRamps s).mtu = s.mtu ∧ (stepRamps s).resetPin = s.resetPin ∧ (stepRamps s).pending = s.pending := by
  simp [stepRamps]

@[simp] theorem joinFadeIn_keeps (s : State) :
    (joinFadeIn s).stc = s.stc ∧ (joinFadeIn s).lif = s.lif ∧ (joinFadeIn s).rfr = s.rfr ∧ (joinFadeIn s).mse = s.mse ∧
    (joinFadeIn s).chs = s.chs ∧ (joinFadeIn s).sst = s.sst ∧ (joinFadeIn s).gsu = s.gsu ∧ (joinFadeIn s).alu = s.alu ∧
    (joinFadeIn s).mtu = s.mtu ∧ (joinFadeIn s).resetPin = s.resetPin ∧ (joinFadeIn s).pending = s.pending := by
  simp [joinFadeIn]

@[simp] theorem holdRamps_keeps (s : State) :
    (holdRamps s).stc = s.stc ∧ (holdRamps s).lif = s.lif ∧ (holdRamps s).rfr = s.rfr ∧ (holdRamps s).mse = s.mse ∧
    (holdRamps s).chs = s.chs ∧ (holdRamps s).sst = s.sst ∧ (holdRamps s).gsu = s.gsu ∧ (holdRamps s).alu = s.alu ∧
    (holdRamps s).mtu = s.mtu ∧ (holdRamps s).resetPin = s.resetPin ∧ (holdRamps s).pending = s.pending := by
  simp [holdRamps]

@[simp] theorem postDelays_keeps (s : State) :
    (postDelays s).stc = s.stc ∧ (postDelays s).lif = s.lif ∧ (postDelays s).rfr = s.rfr ∧ (postDelays s).mse = s.mse ∧
    (postDelays s).chs = s.chs ∧ (postDelays s).sst = s.sst ∧ (postDelays s).gsu = s.gsu ∧ (postDelays s).alu = s.alu ∧
    (postDelays s).mtu = s.mtu ∧ (postDelays s).resetPin = s.resetPin ∧ (postDelays s).pending = s.pending := by
  simp [postDelays]

@[simp] theorem settle_keeps (s : State) :
    (settle s).stc.station = s.stc.station ∧ (settle s).stc.nodeId = s.stc.nodeId ∧
    (settle s).stc.stripBase = s.stc.stripBase ∧ (settle s).stc.boot = s.stc.boot ∧
    (settle s).stc.resetCause = s.stc.resetCause ∧ (settle s).stc.stop = s.stc.stop ∧
    (settle s).stc.listeningCount = s.stc.listeningCount ∧ (settle s).stc.joiningComplete = s.stc.joiningComplete ∧
    (settle s).lif = s.lif ∧ (settle s).rfr = s.rfr ∧ (settle s).mse.reassembly = s.mse.reassembly ∧
    (settle s).mse.announceWaiting = s.mse.announceWaiting ∧ (settle s).mse.stripAnswers = s.mse.stripAnswers ∧
    (settle s).mse.meterAnswers = s.mse.meterAnswers ∧ (settle s).mse.inProgress = s.mse.inProgress ∧
    (settle s).chs = s.chs ∧ (settle s).sst = s.sst ∧ (settle s).gsu = s.gsu ∧ (settle s).mtu = s.mtu ∧
    (settle s).resetPin = s.resetPin ∧ (settle s).pending = s.pending := by
  simp [settle]

@[simp] theorem evaluateChannel_keeps (c : Chan) (s : State) :
    (evaluateChannel c s).stc = s.stc ∧ (evaluateChannel c s).lif = s.lif ∧ (evaluateChannel c s).rfr = s.rfr ∧
    (evaluateChannel c s).mse = s.mse ∧ (evaluateChannel c s).chs = s.chs ∧ (evaluateChannel c s).sst = s.sst ∧
    (evaluateChannel c s).gsu = s.gsu ∧ (evaluateChannel c s).mxd = s.mxd ∧ (evaluateChannel c s).mtu = s.mtu ∧
    (evaluateChannel c s).resetPin = s.resetPin ∧ (evaluateChannel c s).pending = s.pending := by
  simp [evaluateChannel]

@[simp] theorem rearmChannel_keeps (c : Chan) (s : State) :
    (rearmChannel c s).stc.station = s.stc.station ∧ (rearmChannel c s).stc.nodeId = s.stc.nodeId ∧
    (rearmChannel c s).stc.stripBase = s.stc.stripBase ∧ (rearmChannel c s).stc.boot = s.stc.boot ∧
    (rearmChannel c s).stc.resetCause = s.stc.resetCause ∧ (rearmChannel c s).stc.stop = s.stc.stop ∧
    (rearmChannel c s).stc.listeningCount = s.stc.listeningCount ∧
    (rearmChannel c s).stc.joiningComplete = s.stc.joiningComplete ∧ (rearmChannel c s).lif = s.lif ∧
    (rearmChannel c s).rfr = s.rfr ∧ (rearmChannel c s).mse.reassembly = s.mse.reassembly ∧
    (rearmChannel c s).mse.announceWaiting = s.mse.announceWaiting ∧
    (rearmChannel c s).mse.stripAnswers = s.mse.stripAnswers ∧ (rearmChannel c s).mse.meterAnswers = s.mse.meterAnswers ∧
    (rearmChannel c s).mse.inProgress = s.mse.inProgress ∧ (rearmChannel c s).chs = s.chs ∧
    (rearmChannel c s).sst = s.sst ∧ (rearmChannel c s).gsu = s.gsu ∧ (rearmChannel c s).mtu = s.mtu ∧
    (rearmChannel c s).resetPin = s.resetPin ∧ (rearmChannel c s).pending = s.pending := by
  unfold rearmChannel; split <;> simp

/-! ### Writes -/

@[simp] theorem writeSource_keeps (c : Chan) (w : Word) (s : State) :
    (writeSource c w s).stc.station = s.stc.station ∧ (writeSource c w s).stc.nodeId = s.stc.nodeId ∧
    (writeSource c w s).stc.stripBase = s.stc.stripBase ∧ (writeSource c w s).stc.boot = s.stc.boot ∧
    (writeSource c w s).stc.resetCause = s.stc.resetCause ∧ (writeSource c w s).stc.stop = s.stc.stop ∧
    (writeSource c w s).stc.listeningCount = s.stc.listeningCount ∧
    (writeSource c w s).stc.joiningComplete = s.stc.joiningComplete ∧ (writeSource c w s).lif = s.lif ∧
    (writeSource c w s).rfr = s.rfr ∧ (writeSource c w s).mse.reassembly = s.mse.reassembly ∧
    (writeSource c w s).mse.announceWaiting = s.mse.announceWaiting ∧
    (writeSource c w s).mse.stripAnswers = s.mse.stripAnswers ∧
    (writeSource c w s).mse.meterAnswers = s.mse.meterAnswers ∧ (writeSource c w s).mse.inProgress = s.mse.inProgress ∧
    (writeSource c w s).chs = s.chs ∧ (writeSource c w s).gsu = s.gsu ∧ (writeSource c w s).mtu = s.mtu ∧
    (writeSource c w s).resetPin = s.resetPin ∧ (writeSource c w s).pending = s.pending := by
  simp [writeSource]

@[simp] theorem writeTrim_keeps (c : Chan) (w : Word) (s : State) :
    (writeTrim c w s).stc = s.stc ∧ (writeTrim c w s).lif = s.lif ∧ (writeTrim c w s).rfr = s.rfr ∧
    (writeTrim c w s).mse = s.mse ∧ (writeTrim c w s).chs = s.chs ∧ (writeTrim c w s).gsu = s.gsu ∧
    (writeTrim c w s).alu = s.alu ∧ (writeTrim c w s).mxd = s.mxd ∧ (writeTrim c w s).mtu = s.mtu ∧
    (writeTrim c w s).resetPin = s.resetPin ∧ (writeTrim c w s).pending = s.pending := by
  simp [writeTrim]

@[simp] theorem writeFader_keeps (c : Chan) (w : Word) (s : State) :
    (writeFader c w s).stc = s.stc ∧ (writeFader c w s).lif = s.lif ∧ (writeFader c w s).rfr = s.rfr ∧
    (writeFader c w s).mse = s.mse ∧ (writeFader c w s).chs = s.chs ∧ (writeFader c w s).gsu = s.gsu ∧
    (writeFader c w s).alu = s.alu ∧ (writeFader c w s).mxd = s.mxd ∧ (writeFader c w s).mtu = s.mtu ∧
    (writeFader c w s).resetPin = s.resetPin ∧ (writeFader c w s).pending = s.pending := by
  simp [writeFader]

@[simp] theorem writeMute_keeps (c : Chan) (w : Word) (s : State) :
    (writeMute c w s).stc = s.stc ∧ (writeMute c w s).lif = s.lif ∧ (writeMute c w s).rfr = s.rfr ∧
    (writeMute c w s).mse = s.mse ∧ (writeMute c w s).chs = s.chs ∧ (writeMute c w s).gsu = s.gsu ∧
    (writeMute c w s).alu = s.alu ∧ (writeMute c w s).mxd = s.mxd ∧ (writeMute c w s).mtu = s.mtu ∧
    (writeMute c w s).resetPin = s.resetPin ∧ (writeMute c w s).pending = s.pending := by
  simp [writeMute]

@[simp] theorem writeSolo_keeps (c : Chan) (w : Word) (s : State) :
    (writeSolo c w s).stc = s.stc ∧ (writeSolo c w s).lif = s.lif ∧ (writeSolo c w s).rfr = s.rfr ∧
    (writeSolo c w s).mse = s.mse ∧ (writeSolo c w s).chs = s.chs ∧ (writeSolo c w s).gsu.groups = s.gsu.groups ∧
    (writeSolo c w s).alu = s.alu ∧ (writeSolo c w s).mxd = s.mxd ∧ (writeSolo c w s).mtu = s.mtu ∧
    (writeSolo c w s).resetPin = s.resetPin ∧ (writeSolo c w s).pending = s.pending := by
  simp [writeSolo]

@[simp] theorem writeSoloSafe_keeps (c : Chan) (w : Word) (s : State) :
    (writeSoloSafe c w s).stc = s.stc ∧ (writeSoloSafe c w s).lif = s.lif ∧ (writeSoloSafe c w s).rfr = s.rfr ∧
    (writeSoloSafe c w s).mse = s.mse ∧ (writeSoloSafe c w s).chs = s.chs ∧
    (writeSoloSafe c w s).gsu.groups = s.gsu.groups ∧ (writeSoloSafe c w s).alu = s.alu ∧
    (writeSoloSafe c w s).mxd = s.mxd ∧ (writeSoloSafe c w s).mtu = s.mtu ∧ (writeSoloSafe c w s).resetPin = s.resetPin ∧
    (writeSoloSafe c w s).pending = s.pending := by
  simp [writeSoloSafe]

@[simp] theorem writeScope_keeps (c : Chan) (w : Word) (s : State) :
    (writeScope c w s).stc = s.stc ∧ (writeScope c w s).lif = s.lif ∧ (writeScope c w s).rfr = s.rfr ∧
    (writeScope c w s).mse = s.mse ∧ (writeScope c w s).chs = s.chs ∧ (writeScope c w s).gsu.groups = s.gsu.groups ∧
    (writeScope c w s).alu = s.alu ∧ (writeScope c w s).mxd = s.mxd ∧ (writeScope c w s).mtu = s.mtu ∧
    (writeScope c w s).resetPin = s.resetPin ∧ (writeScope c w s).pending = s.pending := by
  simp [writeScope]

@[simp] theorem writeGroups_keeps (c : Chan) (w : Word) (s : State) :
    (writeGroups c w s).stc = s.stc ∧ (writeGroups c w s).lif = s.lif ∧ (writeGroups c w s).rfr = s.rfr ∧
    (writeGroups c w s).mse = s.mse ∧ (writeGroups c w s).chs = s.chs ∧ (writeGroups c w s).gsu.groups = s.gsu.groups ∧
    (writeGroups c w s).alu = s.alu ∧ (writeGroups c w s).mxd = s.mxd ∧ (writeGroups c w s).mtu = s.mtu ∧
    (writeGroups c w s).resetPin = s.resetPin ∧ (writeGroups c w s).pending = s.pending := by
  simp [writeGroups]

@[simp] theorem setSend_keeps (c : Chan) (k : SendIx) (d : SendSettings) (s : State) :
    (setSend s c k d).stc = s.stc ∧ (setSend s c k d).lif = s.lif ∧ (setSend s c k d).rfr = s.rfr ∧
    (setSend s c k d).mse = s.mse ∧ (setSend s c k d).chs = s.chs ∧ (setSend s c k d).gsu = s.gsu ∧
    (setSend s c k d).alu = s.alu ∧ (setSend s c k d).mxd = s.mxd ∧ (setSend s c k d).mtu = s.mtu ∧
    (setSend s c k d).resetPin = s.resetPin ∧ (setSend s c k d).pending = s.pending := by
  simp [setSend]

@[simp] theorem writeSendBus_keeps (c : Chan) (k : SendIx) (w : Word) (s : State) :
    (writeSendBus c k w s).stc.station = s.stc.station ∧ (writeSendBus c k w s).stc.nodeId = s.stc.nodeId ∧
    (writeSendBus c k w s).stc.stripBase = s.stc.stripBase ∧ (writeSendBus c k w s).stc.boot = s.stc.boot ∧
    (writeSendBus c k w s).stc.resetCause = s.stc.resetCause ∧ (writeSendBus c k w s).stc.stop = s.stc.stop ∧
    (writeSendBus c k w s).stc.listeningCount = s.stc.listeningCount ∧
    (writeSendBus c k w s).stc.joiningComplete = s.stc.joiningComplete ∧ (writeSendBus c k w s).lif = s.lif ∧
    (writeSendBus c k w s).rfr = s.rfr ∧ (writeSendBus c k w s).mse.reassembly = s.mse.reassembly ∧
    (writeSendBus c k w s).mse.announceWaiting = s.mse.announceWaiting ∧
    (writeSendBus c k w s).mse.stripAnswers = s.mse.stripAnswers ∧
    (writeSendBus c k w s).mse.meterAnswers = s.mse.meterAnswers ∧
    (writeSendBus c k w s).mse.inProgress = s.mse.inProgress ∧ (writeSendBus c k w s).chs = s.chs ∧
    (writeSendBus c k w s).gsu = s.gsu ∧ (writeSendBus c k w s).mtu = s.mtu ∧
    (writeSendBus c k w s).resetPin = s.resetPin ∧ (writeSendBus c k w s).pending = s.pending := by
  simp [writeSendBus]

@[simp] theorem writeSendLevel_keeps (c : Chan) (k : SendIx) (w : Word) (s : State) :
    (writeSendLevel c k w s).stc = s.stc ∧ (writeSendLevel c k w s).lif = s.lif ∧ (writeSendLevel c k w s).rfr = s.rfr ∧
    (writeSendLevel c k w s).mse = s.mse ∧ (writeSendLevel c k w s).chs = s.chs ∧ (writeSendLevel c k w s).gsu = s.gsu ∧
    (writeSendLevel c k w s).alu = s.alu ∧ (writeSendLevel c k w s).mxd = s.mxd ∧ (writeSendLevel c k w s).mtu = s.mtu ∧
    (writeSendLevel c k w s).resetPin = s.resetPin ∧ (writeSendLevel c k w s).pending = s.pending := by
  simp [writeSendLevel]

@[simp] theorem writeSendSwitches_keeps (c : Chan) (k : SendIx) (w : Word) (s : State) :
    (writeSendSwitches c k w s).stc = s.stc ∧ (writeSendSwitches c k w s).lif = s.lif ∧
    (writeSendSwitches c k w s).rfr = s.rfr ∧ (writeSendSwitches c k w s).mse = s.mse ∧
    (writeSendSwitches c k w s).chs = s.chs ∧ (writeSendSwitches c k w s).gsu = s.gsu ∧
    (writeSendSwitches c k w s).alu = s.alu ∧ (writeSendSwitches c k w s).mxd = s.mxd ∧
    (writeSendSwitches c k w s).mtu = s.mtu ∧ (writeSendSwitches c k w s).resetPin = s.resetPin ∧
    (writeSendSwitches c k w s).pending = s.pending := by
  simp [writeSendSwitches]

@[simp] theorem applyWrite_keeps (c : Chan) (id : BitVec 16) (w : Word) (s : State) :
    (applyWrite c id w s).stc.station = s.stc.station ∧ (applyWrite c id w s).stc.nodeId = s.stc.nodeId ∧
    (applyWrite c id w s).stc.stripBase = s.stc.stripBase ∧ (applyWrite c id w s).stc.boot = s.stc.boot ∧
    (applyWrite c id w s).stc.resetCause = s.stc.resetCause ∧ (applyWrite c id w s).stc.stop = s.stc.stop ∧
    (applyWrite c id w s).stc.listeningCount = s.stc.listeningCount ∧
    (applyWrite c id w s).stc.joiningComplete = s.stc.joiningComplete ∧ (applyWrite c id w s).lif = s.lif ∧
    (applyWrite c id w s).rfr = s.rfr ∧ (applyWrite c id w s).mse.reassembly = s.mse.reassembly ∧
    (applyWrite c id w s).mse.announceWaiting = s.mse.announceWaiting ∧
    (applyWrite c id w s).mse.stripAnswers = s.mse.stripAnswers ∧
    (applyWrite c id w s).mse.meterAnswers = s.mse.meterAnswers ∧
    (applyWrite c id w s).mse.inProgress = s.mse.inProgress ∧ (applyWrite c id w s).chs = s.chs ∧
    (applyWrite c id w s).gsu.groups = s.gsu.groups ∧ (applyWrite c id w s).mtu = s.mtu ∧
    (applyWrite c id w s).resetPin = s.resetPin ∧ (applyWrite c id w s).pending = s.pending := by
  unfold applyWrite; split <;> simp

/-! ### Totals, histories, outputs, ports -/

@[simp] theorem openTotals_keeps (f : Bus → Int) (s : State) :
    (openTotals f s).stc = s.stc ∧ (openTotals f s).lif = s.lif ∧ (openTotals f s).rfr = s.rfr ∧
    (openTotals f s).mse = s.mse ∧ (openTotals f s).chs = s.chs ∧ (openTotals f s).sst = s.sst ∧
    (openTotals f s).gsu = s.gsu ∧ (openTotals f s).alu = s.alu ∧ (openTotals f s).mtu = s.mtu ∧
    (openTotals f s).resetPin = s.resetPin ∧ (openTotals f s).pending = s.pending := by
  simp [openTotals]

@[simp] theorem addBusWords_keeps (f : Bus → Int) (s : State) :
    (addBusWords f s).stc = s.stc ∧ (addBusWords f s).lif = s.lif ∧ (addBusWords f s).rfr = s.rfr ∧
    (addBusWords f s).mse = s.mse ∧ (addBusWords f s).chs = s.chs ∧ (addBusWords f s).sst = s.sst ∧
    (addBusWords f s).gsu = s.gsu ∧ (addBusWords f s).alu = s.alu ∧ (addBusWords f s).mtu = s.mtu ∧
    (addBusWords f s).resetPin = s.resetPin ∧ (addBusWords f s).pending = s.pending := by
  unfold addBusWords; split <;> simp

@[simp] theorem discardTotals_keeps (s : State) :
    (discardTotals s).stc = s.stc ∧ (discardTotals s).lif = s.lif ∧ (discardTotals s).rfr = s.rfr ∧
    (discardTotals s).mse = s.mse ∧ (discardTotals s).chs = s.chs ∧ (discardTotals s).sst = s.sst ∧
    (discardTotals s).gsu = s.gsu ∧ (discardTotals s).alu = s.alu ∧ (discardTotals s).mtu = s.mtu ∧
    (discardTotals s).resetPin = s.resetPin ∧ (discardTotals s).pending = s.pending := by
  simp [discardTotals]

@[simp] theorem closeFrame_keeps (s : State) :
    (closeFrame s).stc.station = s.stc.station ∧ (closeFrame s).stc.nodeId = s.stc.nodeId ∧
    (closeFrame s).stc.stripBase = s.stc.stripBase ∧ (closeFrame s).stc.boot = s.stc.boot ∧
    (closeFrame s).stc.resetCause = s.stc.resetCause ∧ (closeFrame s).stc.stop = s.stc.stop ∧
    (closeFrame s).stc.listeningCount = s.stc.listeningCount ∧
    (closeFrame s).stc.joiningComplete = s.stc.joiningComplete ∧ (closeFrame s).lif = s.lif ∧
    (closeFrame s).rfr = s.rfr ∧ (closeFrame s).mse.reassembly = s.mse.reassembly ∧
    (closeFrame s).mse.announceWaiting = s.mse.announceWaiting ∧ (closeFrame s).mse.stripAnswers = s.mse.stripAnswers ∧
    (closeFrame s).mse.meterAnswers = s.mse.meterAnswers ∧ (closeFrame s).mse.inProgress = s.mse.inProgress ∧
    (closeFrame s).chs = s.chs ∧ (closeFrame s).sst = s.sst ∧ (closeFrame s).gsu = s.gsu ∧ (closeFrame s).alu = s.alu ∧
    (closeFrame s).mtu = s.mtu ∧ (closeFrame s).resetPin = s.resetPin ∧ (closeFrame s).pending = s.pending := by
  unfold closeFrame; split <;> simp

@[simp] theorem silenceOutputs_keeps (s : State) :
    (silenceOutputs s).stc = s.stc ∧ (silenceOutputs s).lif = s.lif ∧ (silenceOutputs s).rfr = s.rfr ∧
    (silenceOutputs s).mse = s.mse ∧ (silenceOutputs s).chs = s.chs ∧ (silenceOutputs s).sst = s.sst ∧
    (silenceOutputs s).gsu = s.gsu ∧ (silenceOutputs s).alu = s.alu ∧ (silenceOutputs s).mtu = s.mtu ∧
    (silenceOutputs s).resetPin = s.resetPin ∧ (silenceOutputs s).pending = s.pending := by
  simp [silenceOutputs]

@[simp] theorem enterSamples_keeps (inputs : Table 48 Sample) (s : State) :
    (enterSamples inputs s).stc = s.stc ∧ (enterSamples inputs s).lif = s.lif ∧ (enterSamples inputs s).rfr = s.rfr ∧
    (enterSamples inputs s).mse = s.mse ∧ (enterSamples inputs s).chs = s.chs ∧ (enterSamples inputs s).sst = s.sst ∧
    (enterSamples inputs s).gsu = s.gsu ∧ (enterSamples inputs s).alu = s.alu ∧ (enterSamples inputs s).mtu = s.mtu ∧
    (enterSamples inputs s).resetPin = s.resetPin ∧ (enterSamples inputs s).pending = s.pending := by
  simp [enterSamples]

@[simp] theorem setLock_keeps (port : PortIx) (b : Bool) (s : State) :
    (setLock port b s).stc = s.stc ∧ (setLock port b s).lif = s.lif ∧ (setLock port b s).rfr = s.rfr ∧
    (setLock port b s).mse = s.mse ∧ (setLock port b s).chs = s.chs ∧ (setLock port b s).sst = s.sst ∧
    (setLock port b s).gsu = s.gsu ∧ (setLock port b s).alu = s.alu ∧ (setLock port b s).mtu = s.mtu ∧
    (setLock port b s).resetPin = s.resetPin ∧ (setLock port b s).pending = s.pending := by
  simp [setLock]

/-! ### Meters -/

@[simp] theorem dropAnswerOf_keeps (e : Option WatchEntry) (s : State) :
    (dropAnswerOf e s).stc = s.stc ∧ (dropAnswerOf e s).lif = s.lif ∧ (dropAnswerOf e s).rfr = s.rfr ∧
    (dropAnswerOf e s).mse.reassembly = s.mse.reassembly ∧
    (dropAnswerOf e s).mse.announceWaiting = s.mse.announceWaiting ∧ (dropAnswerOf e s).mse.notices = s.mse.notices ∧
    (dropAnswerOf e s).mse.stripAnswers = s.mse.stripAnswers ∧ (dropAnswerOf e s).mse.inProgress = s.mse.inProgress ∧
    (dropAnswerOf e s).chs = s.chs ∧ (dropAnswerOf e s).sst = s.sst ∧ (dropAnswerOf e s).gsu = s.gsu ∧
    (dropAnswerOf e s).alu = s.alu ∧ (dropAnswerOf e s).mxd = s.mxd ∧ (dropAnswerOf e s).mtu = s.mtu ∧
    (dropAnswerOf e s).resetPin = s.resetPin ∧ (dropAnswerOf e s).pending = s.pending := by
  unfold dropAnswerOf; split
  · split <;> simp
  · simp

@[simp] theorem watchStrip_keeps (strip : BitVec 16) (c : Chan) (s : State) :
    (watchStrip strip c s).stc = s.stc ∧ (watchStrip strip c s).lif = s.lif ∧ (watchStrip strip c s).rfr = s.rfr ∧
    (watchStrip strip c s).mse.reassembly = s.mse.reassembly ∧
    (watchStrip strip c s).mse.announceWaiting = s.mse.announceWaiting ∧
    (watchStrip strip c s).mse.notices = s.mse.notices ∧ (watchStrip strip c s).mse.stripAnswers = s.mse.stripAnswers ∧
    (watchStrip strip c s).mse.inProgress = s.mse.inProgress ∧ (watchStrip strip c s).chs = s.chs ∧
    (watchStrip strip c s).sst = s.sst ∧ (watchStrip strip c s).gsu = s.gsu ∧ (watchStrip strip c s).alu = s.alu ∧
    (watchStrip strip c s).mxd = s.mxd ∧ (watchStrip strip c s).resetPin = s.resetPin ∧
    (watchStrip strip c s).pending = s.pending := by
  unfold watchStrip; split
  · split <;> simp
  · simp

@[simp] theorem unwatchStrip_keeps (strip : BitVec 16) (s : State) :
    (unwatchStrip strip s).stc = s.stc ∧ (unwatchStrip strip s).lif = s.lif ∧ (unwatchStrip strip s).rfr = s.rfr ∧
    (unwatchStrip strip s).mse = s.mse ∧ (unwatchStrip strip s).chs = s.chs ∧ (unwatchStrip strip s).sst = s.sst ∧
    (unwatchStrip strip s).gsu = s.gsu ∧ (unwatchStrip strip s).alu = s.alu ∧ (unwatchStrip strip s).mxd = s.mxd ∧
    (unwatchStrip strip s).resetPin = s.resetPin ∧ (unwatchStrip strip s).pending = s.pending := by
  unfold unwatchStrip; split <;> simp

@[simp] theorem clearWaitingMarks_keeps (s : State) :
    (clearWaitingMarks s).stc = s.stc ∧ (clearWaitingMarks s).lif = s.lif ∧ (clearWaitingMarks s).rfr = s.rfr ∧
    (clearWaitingMarks s).mse = s.mse ∧ (clearWaitingMarks s).chs = s.chs ∧ (clearWaitingMarks s).sst = s.sst ∧
    (clearWaitingMarks s).gsu = s.gsu ∧ (clearWaitingMarks s).alu = s.alu ∧ (clearWaitingMarks s).mxd = s.mxd ∧
    (clearWaitingMarks s).resetPin = s.resetPin ∧ (clearWaitingMarks s).pending = s.pending := by
  simp [clearWaitingMarks]

@[simp] theorem windowEntry_keeps (e : EntryIx) (s : State) :
    (windowEntry s e).stc = s.stc ∧ (windowEntry s e).lif = s.lif ∧ (windowEntry s e).rfr = s.rfr ∧
    (windowEntry s e).mse.reassembly = s.mse.reassembly ∧ (windowEntry s e).mse.announceWaiting = s.mse.announceWaiting ∧
    (windowEntry s e).mse.notices = s.mse.notices ∧ (windowEntry s e).mse.stripAnswers = s.mse.stripAnswers ∧
    (windowEntry s e).mse.inProgress = s.mse.inProgress ∧ (windowEntry s e).chs = s.chs ∧ (windowEntry s e).sst = s.sst ∧
    (windowEntry s e).gsu = s.gsu ∧ (windowEntry s e).alu = s.alu ∧ (windowEntry s e).mxd = s.mxd ∧
    (windowEntry s e).resetPin = s.resetPin ∧ (windowEntry s e).pending = s.pending := by
  unfold windowEntry; split <;> simp

/-- A window end keeps every block but the meters and their answers. -/
@[simp] theorem endWindow_keeps (s : State) :
    (endWindow s).stc = s.stc ∧ (endWindow s).lif = s.lif ∧ (endWindow s).rfr = s.rfr ∧
    (endWindow s).mse.reassembly = s.mse.reassembly ∧ (endWindow s).mse.announceWaiting = s.mse.announceWaiting ∧
    (endWindow s).mse.notices = s.mse.notices ∧ (endWindow s).mse.stripAnswers = s.mse.stripAnswers ∧
    (endWindow s).mse.inProgress = s.mse.inProgress ∧ (endWindow s).chs = s.chs ∧ (endWindow s).sst = s.sst ∧
    (endWindow s).gsu = s.gsu ∧ (endWindow s).alu = s.alu ∧ (endWindow s).mxd = s.mxd ∧
    (endWindow s).resetPin = s.resetPin ∧ (endWindow s).pending = s.pending := by
  have h {α : Type} (P : State → α) (hp : ∀ s e, P (windowEntry s e) = P s) :
      P ((List.finRange 8).foldl windowEntry s) = P s := foldl_keeps hp _ s
  simp only [endWindow, State.setMtu_stc, State.setMtu_lif, State.setMtu_rfr, State.setMtu_mse, State.setMtu_chs,
    State.setMtu_sst, State.setMtu_gsu, State.setMtu_alu, State.setMtu_mxd, State.setMtu_resetPin, State.setMtu_pending]
  exact ⟨h (·.stc) (by simp), h (·.lif) (by simp), h (·.rfr) (by simp), h (·.mse.reassembly) (by simp),
    h (·.mse.announceWaiting) (by simp), h (·.mse.notices) (by simp), h (·.mse.stripAnswers) (by simp),
    h (·.mse.inProgress) (by simp), h (·.chs) (by simp), h (·.sst) (by simp), h (·.gsu) (by simp), h (·.alu) (by simp),
    h (·.mxd) (by simp), h (·.resetPin) (by simp), h (·.pending) (by simp)⟩

@[simp] theorem startMetering_keeps (s : State) :
    (startMetering s).stc = s.stc ∧ (startMetering s).lif = s.lif ∧ (startMetering s).rfr = s.rfr ∧
    (startMetering s).mse = s.mse ∧ (startMetering s).chs = s.chs ∧ (startMetering s).sst = s.sst ∧
    (startMetering s).gsu = s.gsu ∧ (startMetering s).alu = s.alu ∧ (startMetering s).mxd = s.mxd ∧
    (startMetering s).resetPin = s.resetPin ∧ (startMetering s).pending = s.pending := by
  simp [startMetering]

@[simp] theorem meterFrame_keeps (s : State) :
    (meterFrame s).stc = s.stc ∧ (meterFrame s).lif = s.lif ∧ (meterFrame s).rfr = s.rfr ∧
    (meterFrame s).mse.reassembly = s.mse.reassembly ∧ (meterFrame s).mse.announceWaiting = s.mse.announceWaiting ∧
    (meterFrame s).mse.notices = s.mse.notices ∧ (meterFrame s).mse.stripAnswers = s.mse.stripAnswers ∧
    (meterFrame s).mse.inProgress = s.mse.inProgress ∧ (meterFrame s).chs = s.chs ∧ (meterFrame s).sst = s.sst ∧
    (meterFrame s).gsu = s.gsu ∧ (meterFrame s).alu = s.alu ∧ (meterFrame s).mxd = s.mxd ∧
    (meterFrame s).resetPin = s.resetPin ∧ (meterFrame s).pending = s.pending := by
  unfold meterFrame; dsimp only; split <;> simp

end Sys2Proof.Machine
end

