-- ==== Sys2Proof/Laws/EventFrames.lean ====
section
/-! SUPPORT. What the operations of the scheduler, the station, the messages, the link and the frame leave as it is. -/

namespace Sys2Proof.Machine

/-! ### Changes -/

@[simp] theorem placeDue_keeps (cs : List LaneChange) (s : State) :
    (placeDue cs s).stc = s.stc ∧ (placeDue cs s).lif = s.lif ∧ (placeDue cs s).rfr = s.rfr ∧
    (placeDue cs s).mse = s.mse ∧ (placeDue cs s).sst = s.sst ∧ (placeDue cs s).gsu = s.gsu ∧
    (placeDue cs s).alu = s.alu ∧ (placeDue cs s).mxd = s.mxd ∧ (placeDue cs s).mtu = s.mtu ∧
    (placeDue cs s).resetPin = s.resetPin ∧ (placeDue cs s).pending = s.pending := by
  simp [placeDue]

@[simp] theorem placeQueue_keeps (t : Position) (cs : List LaneChange) (s : State) :
    (placeQueue t cs s).stc = s.stc ∧ (placeQueue t cs s).lif = s.lif ∧ (placeQueue t cs s).rfr = s.rfr ∧
    (placeQueue t cs s).mse = s.mse ∧ (placeQueue t cs s).sst = s.sst ∧ (placeQueue t cs s).gsu = s.gsu ∧
    (placeQueue t cs s).alu = s.alu ∧ (placeQueue t cs s).mxd = s.mxd ∧ (placeQueue t cs s).mtu = s.mtu ∧
    (placeQueue t cs s).resetPin = s.resetPin ∧ (placeQueue t cs s).pending = s.pending := by
  simp [placeQueue]

@[simp] theorem placeChanges_keeps (cs : List LaneChange) (p : Option Position) (s : State) :
    (placeChanges cs p s).stc.station = s.stc.station ∧ (placeChanges cs p s).stc.nodeId = s.stc.nodeId ∧
    (placeChanges cs p s).stc.stripBase = s.stc.stripBase ∧ (placeChanges cs p s).stc.boot = s.stc.boot ∧
    (placeChanges cs p s).stc.resetCause = s.stc.resetCause ∧ (placeChanges cs p s).stc.stop = s.stc.stop ∧
    (placeChanges cs p s).stc.listeningCount = s.stc.listeningCount ∧
    (placeChanges cs p s).stc.joiningComplete = s.stc.joiningComplete ∧ (placeChanges cs p s).lif = s.lif ∧
    (placeChanges cs p s).rfr = s.rfr ∧ (placeChanges cs p s).mse.reassembly = s.mse.reassembly ∧
    (placeChanges cs p s).mse.announceWaiting = s.mse.announceWaiting ∧
    (placeChanges cs p s).mse.stripAnswers = s.mse.stripAnswers ∧
    (placeChanges cs p s).mse.meterAnswers = s.mse.meterAnswers ∧
    (placeChanges cs p s).mse.inProgress = s.mse.inProgress ∧ (placeChanges cs p s).sst = s.sst ∧
    (placeChanges cs p s).gsu = s.gsu ∧ (placeChanges cs p s).alu = s.alu ∧ (placeChanges cs p s).mxd = s.mxd ∧
    (placeChanges cs p s).mtu = s.mtu ∧ (placeChanges cs p s).resetPin = s.resetPin ∧
    (placeChanges cs p s).pending = s.pending := by
  unfold placeChanges; split
  · simp
  · simp
  · split
    · simp
    · split <;> simp

@[simp] theorem closeSet_keeps (lane : LaneIx) (s : State) :
    (closeSet lane s).stc.station = s.stc.station ∧ (closeSet lane s).stc.nodeId = s.stc.nodeId ∧
    (closeSet lane s).stc.stripBase = s.stc.stripBase ∧ (closeSet lane s).stc.boot = s.stc.boot ∧
    (closeSet lane s).stc.resetCause = s.stc.resetCause ∧ (closeSet lane s).stc.stop = s.stc.stop ∧
    (closeSet lane s).stc.listeningCount = s.stc.listeningCount ∧
    (closeSet lane s).stc.joiningComplete = s.stc.joiningComplete ∧ (closeSet lane s).lif = s.lif ∧
    (closeSet lane s).rfr = s.rfr ∧ (closeSet lane s).mse.reassembly = s.mse.reassembly ∧
    (closeSet lane s).mse.announceWaiting = s.mse.announceWaiting ∧
    (closeSet lane s).mse.stripAnswers = s.mse.stripAnswers ∧ (closeSet lane s).mse.meterAnswers = s.mse.meterAnswers ∧
    (closeSet lane s).mse.inProgress = s.mse.inProgress ∧ (closeSet lane s).sst = s.sst ∧ (closeSet lane s).gsu = s.gsu ∧
    (closeSet lane s).alu = s.alu ∧ (closeSet lane s).mxd = s.mxd ∧ (closeSet lane s).mtu = s.mtu ∧
    (closeSet lane s).resetPin = s.resetPin ∧ (closeSet lane s).pending = s.pending := by
  simp [closeSet]

@[simp] theorem countDown_keeps (lane : LaneIx) (col : BindCollection) (s : State) :
    (countDown lane col s).stc.station = s.stc.station ∧ (countDown lane col s).stc.nodeId = s.stc.nodeId ∧
    (countDown lane col s).stc.stripBase = s.stc.stripBase ∧ (countDown lane col s).stc.boot = s.stc.boot ∧
    (countDown lane col s).stc.resetCause = s.stc.resetCause ∧ (countDown lane col s).stc.stop = s.stc.stop ∧
    (countDown lane col s).stc.listeningCount = s.stc.listeningCount ∧
    (countDown lane col s).stc.joiningComplete = s.stc.joiningComplete ∧ (countDown lane col s).lif = s.lif ∧
    (countDown lane col s).rfr = s.rfr ∧ (countDown lane col s).mse.reassembly = s.mse.reassembly ∧
    (countDown lane col s).mse.announceWaiting = s.mse.announceWaiting ∧
    (countDown lane col s).mse.stripAnswers = s.mse.stripAnswers ∧
    (countDown lane col s).mse.meterAnswers = s.mse.meterAnswers ∧
    (countDown lane col s).mse.inProgress = s.mse.inProgress ∧ (countDown lane col s).sst = s.sst ∧
    (countDown lane col s).gsu = s.gsu ∧ (countDown lane col s).alu = s.alu ∧ (countDown lane col s).mxd = s.mxd ∧
    (countDown lane col s).mtu = s.mtu ∧ (countDown lane col s).resetPin = s.resetPin ∧
    (countDown lane col s).pending = s.pending := by
  unfold countDown; dsimp only; split <;> simp

@[simp] theorem countMember_keeps (lane : LaneIx) (c : Option Change) (p : Option Position) (s : State) :
    (countMember lane c p s).stc.station = s.stc.station ∧ (countMember lane c p s).stc.nodeId = s.stc.nodeId ∧
    (countMember lane c p s).stc.stripBase = s.stc.stripBase ∧ (countMember lane c p s).stc.boot = s.stc.boot ∧
    (countMember lane c p s).stc.resetCause = s.stc.resetCause ∧ (countMember lane c p s).stc.stop = s.stc.stop ∧
    (countMember lane c p s).stc.listeningCount = s.stc.listeningCount ∧
    (countMember lane c p s).stc.joiningComplete = s.stc.joiningComplete ∧ (countMember lane c p s).lif = s.lif ∧
    (countMember lane c p s).rfr = s.rfr ∧ (countMember lane c p s).mse.reassembly = s.mse.reassembly ∧
    (countMember lane c p s).mse.announceWaiting = s.mse.announceWaiting ∧
    (countMember lane c p s).mse.stripAnswers = s.mse.stripAnswers ∧
    (countMember lane c p s).mse.meterAnswers = s.mse.meterAnswers ∧
    (countMember lane c p s).mse.inProgress = s.mse.inProgress ∧ (countMember lane c p s).sst = s.sst ∧
    (countMember lane c p s).gsu = s.gsu ∧ (countMember lane c p s).alu = s.alu ∧ (countMember lane c p s).mxd = s.mxd ∧
    (countMember lane c p s).mtu = s.mtu ∧ (countMember lane c p s).resetPin = s.resetPin ∧
    (countMember lane c p s).pending = s.pending := by
  unfold countMember; dsimp only; split
  · simp
  · split <;> simp

@[simp] theorem takeChange_keeps (lane : LaneIx) (c : Option Change) (p : Option Position) (s : State) :
    (takeChange lane c p s).stc.station = s.stc.station ∧ (takeChange lane c p s).stc.nodeId = s.stc.nodeId ∧
    (takeChange lane c p s).stc.stripBase = s.stc.stripBase ∧ (takeChange lane c p s).stc.boot = s.stc.boot ∧
    (takeChange lane c p s).stc.resetCause = s.stc.resetCause ∧ (takeChange lane c p s).stc.stop = s.stc.stop ∧
    (takeChange lane c p s).stc.listeningCount = s.stc.listeningCount ∧
    (takeChange lane c p s).stc.joiningComplete = s.stc.joiningComplete ∧ (takeChange lane c p s).lif = s.lif ∧
    (takeChange lane c p s).rfr = s.rfr ∧ (takeChange lane c p s).mse.reassembly = s.mse.reassembly ∧
    (takeChange lane c p s).mse.announceWaiting = s.mse.announceWaiting ∧
    (takeChange lane c p s).mse.stripAnswers = s.mse.stripAnswers ∧
    (takeChange lane c p s).mse.meterAnswers = s.mse.meterAnswers ∧
    (takeChange lane c p s).mse.inProgress = s.mse.inProgress ∧ (takeChange lane c p s).sst = s.sst ∧
    (takeChange lane c p s).gsu = s.gsu ∧ (takeChange lane c p s).alu = s.alu ∧ (takeChange lane c p s).mxd = s.mxd ∧
    (takeChange lane c p s).mtu = s.mtu ∧ (takeChange lane c p s).resetPin = s.resetPin ∧
    (takeChange lane c p s).pending = s.pending := by
  unfold takeChange; split
  · simp
  · split <;> simp

@[simp] theorem openSet_keeps (lane : LaneIx) (n : Nat) (s : State) :
    (openSet lane n s).stc = s.stc ∧ (openSet lane n s).lif = s.lif ∧ (openSet lane n s).rfr = s.rfr ∧
    (openSet lane n s).mse = s.mse ∧ (openSet lane n s).sst = s.sst ∧ (openSet lane n s).gsu = s.gsu ∧
    (openSet lane n s).alu = s.alu ∧ (openSet lane n s).mxd = s.mxd ∧ (openSet lane n s).mtu = s.mtu ∧
    (openSet lane n s).resetPin = s.resetPin ∧ (openSet lane n s).pending = s.pending := by
  unfold openSet; dsimp only; split <;> simp

@[simp] theorem applyChange_keeps (c : LaneChange) (s : State) :
    (applyChange s c).stc.station = s.stc.station ∧ (applyChange s c).stc.nodeId = s.stc.nodeId ∧
    (applyChange s c).stc.stripBase = s.stc.stripBase ∧ (applyChange s c).stc.boot = s.stc.boot ∧
    (applyChange s c).stc.resetCause = s.stc.resetCause ∧ (applyChange s c).stc.stop = s.stc.stop ∧
    (applyChange s c).stc.listeningCount = s.stc.listeningCount ∧
    (applyChange s c).stc.joiningComplete = s.stc.joiningComplete ∧ (applyChange s c).lif = s.lif ∧
    (applyChange s c).rfr = s.rfr ∧ (applyChange s c).mse.reassembly = s.mse.reassembly ∧
    (applyChange s c).mse.announceWaiting = s.mse.announceWaiting ∧
    (applyChange s c).mse.stripAnswers = s.mse.stripAnswers ∧ (applyChange s c).mse.meterAnswers = s.mse.meterAnswers ∧
    (applyChange s c).mse.inProgress = s.mse.inProgress ∧ (applyChange s c).chs = s.chs ∧ (applyChange s c).mtu = s.mtu ∧
    (applyChange s c).resetPin = s.resetPin ∧ (applyChange s c).pending = s.pending := by
  unfold applyChange; split <;> simp

@[simp] theorem flushQueue_keeps (s : State) :
    (flushQueue s).stc = s.stc ∧ (flushQueue s).lif = s.lif ∧ (flushQueue s).rfr = s.rfr ∧ (flushQueue s).mse = s.mse ∧
    (flushQueue s).sst = s.sst ∧ (flushQueue s).gsu = s.gsu ∧ (flushQueue s).alu = s.alu ∧ (flushQueue s).mxd = s.mxd ∧
    (flushQueue s).mtu = s.mtu ∧ (flushQueue s).resetPin = s.resetPin ∧ (flushQueue s).pending = s.pending := by
  simp [flushQueue]

/-- A fold of applications keeps what one application keeps. -/
@[simp] theorem applyChanges_keeps (cs : List LaneChange) (s : State) :
    (cs.foldl applyChange s).stc.station = s.stc.station ∧ (cs.foldl applyChange s).stc.nodeId = s.stc.nodeId ∧
    (cs.foldl applyChange s).stc.stripBase = s.stc.stripBase ∧ (cs.foldl applyChange s).stc.boot = s.stc.boot ∧
    (cs.foldl applyChange s).stc.resetCause = s.stc.resetCause ∧ (cs.foldl applyChange s).stc.stop = s.stc.stop ∧
    (cs.foldl applyChange s).stc.listeningCount = s.stc.listeningCount ∧
    (cs.foldl applyChange s).stc.joiningComplete = s.stc.joiningComplete ∧ (cs.foldl applyChange s).lif = s.lif ∧
    (cs.foldl applyChange s).rfr = s.rfr ∧ (cs.foldl applyChange s).mse.reassembly = s.mse.reassembly ∧
    (cs.foldl applyChange s).mse.announceWaiting = s.mse.announceWaiting ∧
    (cs.foldl applyChange s).mse.stripAnswers = s.mse.stripAnswers ∧
    (cs.foldl applyChange s).mse.meterAnswers = s.mse.meterAnswers ∧
    (cs.foldl applyChange s).mse.inProgress = s.mse.inProgress ∧ (cs.foldl applyChange s).chs = s.chs ∧
    (cs.foldl applyChange s).mtu = s.mtu ∧ (cs.foldl applyChange s).resetPin = s.resetPin ∧
    (cs.foldl applyChange s).pending = s.pending := by
  have h {α : Type} (P : State → α) (hp : ∀ s c, P (applyChange s c) = P s) : P (cs.foldl applyChange s) = P s :=
    foldl_keeps hp _ s
  exact ⟨h (·.stc.station) (by simp),
    h (·.stc.nodeId) (by simp),
    h (·.stc.stripBase) (by simp),
    h (·.stc.boot) (by simp),
    h (·.stc.resetCause) (by simp),
    h (·.stc.stop) (by simp),
    h (·.stc.listeningCount) (by simp),
    h (·.stc.joiningComplete) (by simp),
    h (·.lif) (by simp),
    h (·.rfr) (by simp),
    h (·.mse.reassembly) (by simp),
    h (·.mse.announceWaiting) (by simp),
    h (·.mse.stripAnswers) (by simp),
    h (·.mse.meterAnswers) (by simp),
    h (·.mse.inProgress) (by simp),
    h (·.chs) (by simp),
    h (·.mtu) (by simp),
    h (·.resetPin) (by simp),
    h (·.pending) (by simp)⟩

@[simp] theorem applyDueChanges_keeps (s : State) :
    (applyDueChanges s).stc.station = s.stc.station ∧ (applyDueChanges s).stc.nodeId = s.stc.nodeId ∧
    (applyDueChanges s).stc.stripBase = s.stc.stripBase ∧ (applyDueChanges s).stc.boot = s.stc.boot ∧
    (applyDueChanges s).stc.resetCause = s.stc.resetCause ∧ (applyDueChanges s).stc.stop = s.stc.stop ∧
    (applyDueChanges s).stc.listeningCount = s.stc.listeningCount ∧
    (applyDueChanges s).stc.joiningComplete = s.stc.joiningComplete ∧ (applyDueChanges s).lif = s.lif ∧
    (applyDueChanges s).rfr = s.rfr ∧ (applyDueChanges s).mse.reassembly = s.mse.reassembly ∧
    (applyDueChanges s).mse.announceWaiting = s.mse.announceWaiting ∧
    (applyDueChanges s).mse.stripAnswers = s.mse.stripAnswers ∧
    (applyDueChanges s).mse.meterAnswers = s.mse.meterAnswers ∧ (applyDueChanges s).mse.inProgress = s.mse.inProgress ∧
    (applyDueChanges s).mtu = s.mtu ∧ (applyDueChanges s).resetPin = s.resetPin ∧ (applyDueChanges s).pending = s.pending := by
  simp [applyDueChanges]

@[simp] theorem clearScheduler_keeps (s : State) :
    (clearScheduler s).stc = s.stc ∧ (clearScheduler s).lif = s.lif ∧ (clearScheduler s).rfr = s.rfr ∧
    (clearScheduler s).mse = s.mse ∧ (clearScheduler s).sst = s.sst ∧ (clearScheduler s).gsu = s.gsu ∧
    (clearScheduler s).alu = s.alu ∧ (clearScheduler s).mxd = s.mxd ∧ (clearScheduler s).mtu = s.mtu ∧
    (clearScheduler s).resetPin = s.resetPin ∧ (clearScheduler s).pending = s.pending := by
  simp [clearScheduler]

/-! ### The station -/

@[simp] theorem takeSettings_keeps (b : BootSettings) (s : State) :
    (takeSettings b s).stc.station = s.stc.station ∧ (takeSettings b s).stc.nodeId = s.stc.nodeId ∧
    (takeSettings b s).stc.resetCause = s.stc.resetCause ∧ (takeSettings b s).stc.stop = s.stc.stop ∧
    (takeSettings b s).stc.conditions = s.stc.conditions ∧ (takeSettings b s).stc.listeningCount = s.stc.listeningCount ∧
    (takeSettings b s).stc.joiningComplete = s.stc.joiningComplete ∧ (takeSettings b s).lif = s.lif ∧
    (takeSettings b s).rfr = s.rfr ∧ (takeSettings b s).mse = s.mse ∧ (takeSettings b s).chs = s.chs ∧
    (takeSettings b s).sst = s.sst ∧ (takeSettings b s).gsu = s.gsu ∧ (takeSettings b s).alu = s.alu ∧
    (takeSettings b s).mtu = s.mtu ∧ (takeSettings b s).resetPin = s.resetPin ∧ (takeSettings b s).pending = s.pending := by
  simp [takeSettings]

@[simp] theorem leaveBooting_keeps (s : State) :
    (leaveBooting s).stc.nodeId = s.stc.nodeId ∧ (leaveBooting s).stc.stripBase = s.stc.stripBase ∧
    (leaveBooting s).stc.boot = s.stc.boot ∧ (leaveBooting s).stc.resetCause = s.stc.resetCause ∧
    (leaveBooting s).stc.stop = s.stc.stop ∧ (leaveBooting s).stc.conditions = s.stc.conditions ∧
    (leaveBooting s).stc.joiningComplete = s.stc.joiningComplete ∧ (leaveBooting s).lif = s.lif ∧
    (leaveBooting s).mse = s.mse ∧ (leaveBooting s).chs = s.chs ∧ (leaveBooting s).sst = s.sst ∧
    (leaveBooting s).gsu = s.gsu ∧ (leaveBooting s).alu = s.alu ∧ (leaveBooting s).mxd = s.mxd ∧
    (leaveBooting s).mtu = s.mtu ∧ (leaveBooting s).resetPin = s.resetPin ∧ (leaveBooting s).pending = s.pending := by
  simp [leaveBooting]

@[simp] theorem bootReadEnds_keeps (b : Option BootSettings) (s : State) :
    (bootReadEnds b s).stc.nodeId = s.stc.nodeId ∧ (bootReadEnds b s).stc.resetCause = s.stc.resetCause ∧
    (bootReadEnds b s).stc.stop = s.stc.stop ∧ (bootReadEnds b s).stc.joiningComplete = s.stc.joiningComplete ∧
    (bootReadEnds b s).lif = s.lif ∧ (bootReadEnds b s).mse.reassembly = s.mse.reassembly ∧
    (bootReadEnds b s).mse.announceWaiting = s.mse.announceWaiting ∧
    (bootReadEnds b s).mse.stripAnswers = s.mse.stripAnswers ∧ (bootReadEnds b s).mse.meterAnswers = s.mse.meterAnswers ∧
    (bootReadEnds b s).mse.inProgress = s.mse.inProgress ∧ (bootReadEnds b s).chs = s.chs ∧
    (bootReadEnds b s).sst = s.sst ∧ (bootReadEnds b s).gsu = s.gsu ∧ (bootReadEnds b s).alu = s.alu ∧
    (bootReadEnds b s).mtu = s.mtu ∧ (bootReadEnds b s).resetPin = s.resetPin ∧ (bootReadEnds b s).pending = s.pending := by
  unfold bootReadEnds; split <;> simp

@[simp] theorem stopIn_keeps (st : StationState) (c : StopCause) (s : State) :
    (stopIn st c s).stc.nodeId = s.stc.nodeId ∧ (stopIn st c s).stc.stripBase = s.stc.stripBase ∧
    (stopIn st c s).stc.boot = s.stc.boot ∧ (stopIn st c s).stc.resetCause = s.stc.resetCause ∧
    (stopIn st c s).stc.conditions = s.stc.conditions ∧ (stopIn st c s).stc.listeningCount = s.stc.listeningCount ∧
    (stopIn st c s).lif = s.lif ∧ (stopIn st c s).rfr = s.rfr ∧ (stopIn st c s).mse = s.mse ∧
    (stopIn st c s).chs = s.chs ∧ (stopIn st c s).sst = s.sst ∧ (stopIn st c s).gsu = s.gsu ∧
    (stopIn st c s).alu = s.alu ∧ (stopIn st c s).mxd = s.mxd ∧ (stopIn st c s).mtu = s.mtu ∧
    (stopIn st c s).resetPin = s.resetPin ∧ (stopIn st c s).pending = s.pending := by
  simp [stopIn]

@[simp] theorem enterSilent_keeps (c : StopCause) (s : State) :
    (enterSilent c s).stc.nodeId = s.stc.nodeId ∧ (enterSilent c s).stc.stripBase = s.stc.stripBase ∧
    (enterSilent c s).stc.boot = s.stc.boot ∧ (enterSilent c s).stc.resetCause = s.stc.resetCause ∧
    (enterSilent c s).stc.conditions = s.stc.conditions ∧ (enterSilent c s).stc.listeningCount = s.stc.listeningCount ∧
    (enterSilent c s).lif = s.lif ∧ (enterSilent c s).rfr = s.rfr ∧ (enterSilent c s).mse.reassembly = s.mse.reassembly ∧
    (enterSilent c s).mse.announceWaiting = s.mse.announceWaiting ∧ (enterSilent c s).mse.notices = s.mse.notices ∧
    (enterSilent c s).mse.stripAnswers = s.mse.stripAnswers ∧ (enterSilent c s).mse.meterAnswers = s.mse.meterAnswers ∧
    (enterSilent c s).chs = s.chs ∧ (enterSilent c s).sst = s.sst ∧ (enterSilent c s).gsu = s.gsu ∧
    (enterSilent c s).alu = s.alu ∧ (enterSilent c s).mxd = s.mxd ∧ (enterSilent c s).mtu = s.mtu ∧
    (enterSilent c s).resetPin = s.resetPin ∧ (enterSilent c s).pending = s.pending := by
  simp [enterSilent]

@[simp] theorem lossAtBlocks_keeps (s : State) :
    (lossAtBlocks s).stc = s.stc ∧ (lossAtBlocks s).mse = s.mse ∧ (lossAtBlocks s).chs = s.chs ∧
    (lossAtBlocks s).sst = s.sst ∧ (lossAtBlocks s).gsu = s.gsu ∧ (lossAtBlocks s).alu = s.alu ∧
    (lossAtBlocks s).mtu = s.mtu ∧ (lossAtBlocks s).resetPin = s.resetPin ∧ (lossAtBlocks s).pending = s.pending := by
  simp [lossAtBlocks]

@[simp] theorem lossTaken_keeps (s : State) :
    (lossTaken s).stc.nodeId = s.stc.nodeId ∧ (lossTaken s).stc.stripBase = s.stc.stripBase ∧
    (lossTaken s).stc.boot = s.stc.boot ∧ (lossTaken s).stc.resetCause = s.stc.resetCause ∧
    (lossTaken s).stc.conditions = s.stc.conditions ∧ (lossTaken s).stc.listeningCount = s.stc.listeningCount ∧
    (lossTaken s).mse = s.mse ∧ (lossTaken s).chs = s.chs ∧ (lossTaken s).sst = s.sst ∧ (lossTaken s).gsu = s.gsu ∧
    (lossTaken s).alu = s.alu ∧ (lossTaken s).mtu = s.mtu ∧ (lossTaken s).resetPin = s.resetPin ∧
    (lossTaken s).pending = s.pending := by
  unfold lossTaken; split <;> simp

@[simp] theorem leaveIsolated_keeps (s : State) :
    (leaveIsolated s).stc.nodeId = s.stc.nodeId ∧ (leaveIsolated s).stc.stripBase = s.stc.stripBase ∧
    (leaveIsolated s).stc.boot = s.stc.boot ∧ (leaveIsolated s).stc.resetCause = s.stc.resetCause ∧
    (leaveIsolated s).stc.stop = s.stc.stop ∧ (leaveIsolated s).stc.joiningComplete = s.stc.joiningComplete ∧
    (leaveIsolated s).rfr = s.rfr ∧ (leaveIsolated s).sst = s.sst ∧ (leaveIsolated s).gsu.groups = s.gsu.groups ∧
    (leaveIsolated s).resetPin = s.resetPin ∧ (leaveIsolated s).pending = s.pending := by
  simp [leaveIsolated]

@[simp] theorem enterJoining_keeps (s : State) :
    (enterJoining s).stc.nodeId = s.stc.nodeId ∧ (enterJoining s).stc.stripBase = s.stc.stripBase ∧
    (enterJoining s).stc.boot = s.stc.boot ∧ (enterJoining s).stc.resetCause = s.stc.resetCause ∧
    (enterJoining s).stc.stop = s.stc.stop ∧ (enterJoining s).stc.conditions = s.stc.conditions ∧
    (enterJoining s).stc.listeningCount = s.stc.listeningCount ∧ (enterJoining s).rfr = s.rfr ∧
    (enterJoining s).mse = s.mse ∧ (enterJoining s).chs = s.chs ∧ (enterJoining s).sst = s.sst ∧
    (enterJoining s).gsu = s.gsu ∧ (enterJoining s).alu = s.alu ∧ (enterJoining s).mxd = s.mxd ∧
    (enterJoining s).mtu = s.mtu ∧ (enterJoining s).resetPin = s.resetPin ∧ (enterJoining s).pending = s.pending := by
  simp [enterJoining]

@[simp] theorem decideListening_keeps (s : State) :
    (decideListening s).stc.nodeId = s.stc.nodeId ∧ (decideListening s).stc.stripBase = s.stc.stripBase ∧
    (decideListening s).stc.boot = s.stc.boot ∧ (decideListening s).stc.resetCause = s.stc.resetCause ∧
    (decideListening s).stc.conditions = s.stc.conditions ∧
    (decideListening s).stc.listeningCount = s.stc.listeningCount ∧ (decideListening s).rfr = s.rfr ∧
    (decideListening s).mse.reassembly = s.mse.reassembly ∧
    (decideListening s).mse.announceWaiting = s.mse.announceWaiting ∧ (decideListening s).mse.notices = s.mse.notices ∧
    (decideListening s).mse.stripAnswers = s.mse.stripAnswers ∧
    (decideListening s).mse.meterAnswers = s.mse.meterAnswers ∧ (decideListening s).chs = s.chs ∧
    (decideListening s).sst = s.sst ∧ (decideListening s).gsu = s.gsu ∧ (decideListening s).alu = s.alu ∧
    (decideListening s).mxd = s.mxd ∧ (decideListening s).mtu = s.mtu ∧ (decideListening s).resetPin = s.resetPin ∧
    (decideListening s).pending = s.pending := by
  unfold decideListening; split <;> simp

@[simp] theorem enterContributing_keeps (s : State) :
    (enterContributing s).stc.nodeId = s.stc.nodeId ∧ (enterContributing s).stc.stripBase = s.stc.stripBase ∧
    (enterContributing s).stc.boot = s.stc.boot ∧ (enterContributing s).stc.resetCause = s.stc.resetCause ∧
    (enterContributing s).stc.stop = s.stc.stop ∧ (enterContributing s).stc.conditions = s.stc.conditions ∧
    (enterContributing s).stc.listeningCount = s.stc.listeningCount ∧ (enterContributing s).lif = s.lif ∧
    (enterContributing s).rfr = s.rfr ∧ (enterContributing s).mse.reassembly = s.mse.reassembly ∧
    (enterContributing s).mse.notices = s.mse.notices ∧ (enterContributing s).mse.stripAnswers = s.mse.stripAnswers ∧
    (enterContributing s).mse.meterAnswers = s.mse.meterAnswers ∧
    (enterContributing s).mse.inProgress = s.mse.inProgress ∧ (enterContributing s).chs = s.chs ∧
    (enterContributing s).sst = s.sst ∧ (enterContributing s).gsu = s.gsu ∧ (enterContributing s).alu = s.alu ∧
    (enterContributing s).mxd = s.mxd ∧ (enterContributing s).resetPin = s.resetPin ∧
    (enterContributing s).pending = s.pending := by
  simp [enterContributing]

@[simp] theorem stationAtStrobe_keeps (s : State) :
    (stationAtStrobe s).stc.nodeId = s.stc.nodeId ∧ (stationAtStrobe s).stc.stripBase = s.stc.stripBase ∧
    (stationAtStrobe s).stc.boot = s.stc.boot ∧ (stationAtStrobe s).stc.resetCause = s.stc.resetCause ∧
    (stationAtStrobe s).stc.stop = s.stc.stop ∧ (stationAtStrobe s).rfr = s.rfr ∧ (stationAtStrobe s).sst = s.sst ∧
    (stationAtStrobe s).gsu.groups = s.gsu.groups ∧ (stationAtStrobe s).resetPin = s.resetPin ∧
    (stationAtStrobe s).pending = s.pending := by
  unfold stationAtStrobe; split <;> (try split) <;> simp

@[simp] theorem takeStrobe_keeps (p : Position) (s : State) :
    (takeStrobe p s).stc.station = s.stc.station ∧ (takeStrobe p s).stc.nodeId = s.stc.nodeId ∧
    (takeStrobe p s).stc.stripBase = s.stc.stripBase ∧ (takeStrobe p s).stc.boot = s.stc.boot ∧
    (takeStrobe p s).stc.resetCause = s.stc.resetCause ∧ (takeStrobe p s).stc.stop = s.stc.stop ∧
    (takeStrobe p s).stc.listeningCount = s.stc.listeningCount ∧
    (takeStrobe p s).stc.joiningComplete = s.stc.joiningComplete ∧ (takeStrobe p s).lif = s.lif ∧
    (takeStrobe p s).mse.reassembly = s.mse.reassembly ∧ (takeStrobe p s).mse.announceWaiting = s.mse.announceWaiting ∧
    (takeStrobe p s).mse.stripAnswers = s.mse.stripAnswers ∧ (takeStrobe p s).mse.meterAnswers = s.mse.meterAnswers ∧
    (takeStrobe p s).mse.inProgress = s.mse.inProgress ∧ (takeStrobe p s).chs = s.chs ∧ (takeStrobe p s).sst = s.sst ∧
    (takeStrobe p s).gsu = s.gsu ∧ (takeStrobe p s).alu = s.alu ∧ (takeStrobe p s).mxd = s.mxd ∧
    (takeStrobe p s).mtu = s.mtu ∧ (takeStrobe p s).resetPin = s.resetPin ∧ (takeStrobe p s).pending = s.pending := by
  simp [takeStrobe]

@[simp] theorem pinAsserted_keeps (s : State) :
    (pinAsserted s).stc = s.stc ∧ (pinAsserted s).rfr = s.rfr ∧ (pinAsserted s).mse = s.mse ∧
    (pinAsserted s).chs = s.chs ∧ (pinAsserted s).sst = s.sst ∧ (pinAsserted s).gsu = s.gsu ∧
    (pinAsserted s).alu = s.alu ∧ (pinAsserted s).mtu = s.mtu ∧ (pinAsserted s).pending = s.pending := by
  simp [pinAsserted]

@[simp] theorem stationResetBlocks_keeps (straps : BitVec 4) (s : State) :
    (stationResetBlocks straps s).sst = s.sst ∧ (stationResetBlocks straps s).gsu.groups = s.gsu.groups ∧
    (stationResetBlocks straps s).mxd = s.mxd ∧ (stationResetBlocks straps s).resetPin = s.resetPin ∧
    (stationResetBlocks straps s).pending = s.pending := by
  simp [stationResetBlocks]

@[simp] theorem stationResetTaken_keeps (straps : BitVec 4) (s : State) :
    (stationResetTaken straps s).sst = s.sst ∧ (stationResetTaken straps s).gsu.groups = s.gsu.groups ∧
    (stationResetTaken straps s).resetPin = s.resetPin ∧ (stationResetTaken straps s).pending = s.pending := by
  simp [stationResetTaken]

@[simp] theorem powerOnReset_pending (straps : BitVec 4) (s : State) : (powerOnReset straps s).pending = s.pending := rfl

@[simp] theorem pinResetTaken_pending (straps : BitVec 4) (s : State) : (pinResetTaken straps s).pending = s.pending := rfl

/-! ### Messages -/

@[simp] theorem takeStripSet_keeps (lane : LaneIx) (strip param : BitVec 16) (w : Word) (p : Option Position) (s : State) :
    (takeStripSet lane strip param w p s).stc.station = s.stc.station ∧
    (takeStripSet lane strip param w p s).stc.nodeId = s.stc.nodeId ∧
    (takeStripSet lane strip param w p s).stc.stripBase = s.stc.stripBase ∧
    (takeStripSet lane strip param w p s).stc.boot = s.stc.boot ∧
    (takeStripSet lane strip param w p s).stc.resetCause = s.stc.resetCause ∧
    (takeStripSet lane strip param w p s).stc.stop = s.stc.stop ∧
    (takeStripSet lane strip param w p s).stc.listeningCount = s.stc.listeningCount ∧
    (takeStripSet lane strip param w p s).stc.joiningComplete = s.stc.joiningComplete ∧
    (takeStripSet lane strip param w p s).lif = s.lif ∧ (takeStripSet lane strip param w p s).rfr = s.rfr ∧
    (takeStripSet lane strip param w p s).mse.reassembly = s.mse.reassembly ∧
    (takeStripSet lane strip param w p s).mse.announceWaiting = s.mse.announceWaiting ∧
    (takeStripSet lane strip param w p s).mse.stripAnswers = s.mse.stripAnswers ∧
    (takeStripSet lane strip param w p s).mse.meterAnswers = s.mse.meterAnswers ∧
    (takeStripSet lane strip param w p s).mse.inProgress = s.mse.inProgress ∧
    (takeStripSet lane strip param w p s).sst = s.sst ∧ (takeStripSet lane strip param w p s).gsu = s.gsu ∧
    (takeStripSet lane strip param w p s).alu = s.alu ∧ (takeStripSet lane strip param w p s).mxd = s.mxd ∧
    (takeStripSet lane strip param w p s).mtu = s.mtu ∧ (takeStripSet lane strip param w p s).resetPin = s.resetPin ∧
    (takeStripSet lane strip param w p s).pending = s.pending := by
  unfold takeStripSet; split <;> simp

@[simp] theorem takeGroupLevel_keeps (lane : LaneIx) (gf m : Word) (p : Option Position) (s : State) :
    (takeGroupLevel lane gf m p s).stc.station = s.stc.station ∧
    (takeGroupLevel lane gf m p s).stc.nodeId = s.stc.nodeId ∧
    (takeGroupLevel lane gf m p s).stc.stripBase = s.stc.stripBase ∧
    (takeGroupLevel lane gf m p s).stc.boot = s.stc.boot ∧
    (takeGroupLevel lane gf m p s).stc.resetCause = s.stc.resetCause ∧
    (takeGroupLevel lane gf m p s).stc.stop = s.stc.stop ∧
    (takeGroupLevel lane gf m p s).stc.listeningCount = s.stc.listeningCount ∧
    (takeGroupLevel lane gf m p s).stc.joiningComplete = s.stc.joiningComplete ∧
    (takeGroupLevel lane gf m p s).lif = s.lif ∧ (takeGroupLevel lane gf m p s).rfr = s.rfr ∧
    (takeGroupLevel lane gf m p s).mse.reassembly = s.mse.reassembly ∧
    (takeGroupLevel lane gf m p s).mse.announceWaiting = s.mse.announceWaiting ∧
    (takeGroupLevel lane gf m p s).mse.stripAnswers = s.mse.stripAnswers ∧
    (takeGroupLevel lane gf m p s).mse.meterAnswers = s.mse.meterAnswers ∧
    (takeGroupLevel lane gf m p s).mse.inProgress = s.mse.inProgress ∧ (takeGroupLevel lane gf m p s).sst = s.sst ∧
    (takeGroupLevel lane gf m p s).gsu = s.gsu ∧ (takeGroupLevel lane gf m p s).alu = s.alu ∧
    (takeGroupLevel lane gf m p s).mxd = s.mxd ∧ (takeGroupLevel lane gf m p s).mtu = s.mtu ∧
    (takeGroupLevel lane gf m p s).resetPin = s.resetPin ∧ (takeGroupLevel lane gf m p s).pending = s.pending := by
  unfold takeGroupLevel; split <;> simp

@[simp] theorem takeBind_keeps (lane : LaneIx) (n : Word) (s : State) :
    (takeBind lane n s).stc.station = s.stc.station ∧ (takeBind lane n s).stc.nodeId = s.stc.nodeId ∧
    (takeBind lane n s).stc.stripBase = s.stc.stripBase ∧ (takeBind lane n s).stc.boot = s.stc.boot ∧
    (takeBind lane n s).stc.resetCause = s.stc.resetCause ∧ (takeBind lane n s).stc.stop = s.stc.stop ∧
    (takeBind lane n s).stc.listeningCount = s.stc.listeningCount ∧
    (takeBind lane n s).stc.joiningComplete = s.stc.joiningComplete ∧ (takeBind lane n s).lif = s.lif ∧
    (takeBind lane n s).rfr = s.rfr ∧ (takeBind lane n s).mse.reassembly = s.mse.reassembly ∧
    (takeBind lane n s).mse.announceWaiting = s.mse.announceWaiting ∧
    (takeBind lane n s).mse.stripAnswers = s.mse.stripAnswers ∧
    (takeBind lane n s).mse.meterAnswers = s.mse.meterAnswers ∧ (takeBind lane n s).mse.inProgress = s.mse.inProgress ∧
    (takeBind lane n s).sst = s.sst ∧ (takeBind lane n s).gsu = s.gsu ∧ (takeBind lane n s).alu = s.alu ∧
    (takeBind lane n s).mxd = s.mxd ∧ (takeBind lane n s).mtu = s.mtu ∧ (takeBind lane n s).resetPin = s.resetPin ∧
    (takeBind lane n s).pending = s.pending := by
  unfold takeBind; split
  · split <;> simp
  · simp

@[simp] theorem takeStripQuery_keeps (lane : LaneIx) (strip param : BitVec 16) (s : State) :
    (takeStripQuery lane strip param s).stc = s.stc ∧ (takeStripQuery lane strip param s).lif = s.lif ∧
    (takeStripQuery lane strip param s).rfr = s.rfr ∧
    (takeStripQuery lane strip param s).mse.reassembly = s.mse.reassembly ∧
    (takeStripQuery lane strip param s).mse.announceWaiting = s.mse.announceWaiting ∧
    (takeStripQuery lane strip param s).mse.notices = s.mse.notices ∧
    (takeStripQuery lane strip param s).mse.meterAnswers = s.mse.meterAnswers ∧
    (takeStripQuery lane strip param s).mse.inProgress = s.mse.inProgress ∧
    (takeStripQuery lane strip param s).chs = s.chs ∧ (takeStripQuery lane strip param s).sst = s.sst ∧
    (takeStripQuery lane strip param s).gsu = s.gsu ∧ (takeStripQuery lane strip param s).alu = s.alu ∧
    (takeStripQuery lane strip param s).mxd = s.mxd ∧ (takeStripQuery lane strip param s).mtu = s.mtu ∧
    (takeStripQuery lane strip param s).resetPin = s.resetPin ∧ (takeStripQuery lane strip param s).pending = s.pending := by
  unfold takeStripQuery onStrip; split
  · split <;> simp
  · simp

@[simp] theorem takeWatch_keeps (strip : BitVec 16) (s : State) :
    (takeWatch strip s).stc = s.stc ∧ (takeWatch strip s).lif = s.lif ∧ (takeWatch strip s).rfr = s.rfr ∧
    (takeWatch strip s).mse.reassembly = s.mse.reassembly ∧
    (takeWatch strip s).mse.announceWaiting = s.mse.announceWaiting ∧ (takeWatch strip s).mse.notices = s.mse.notices ∧
    (takeWatch strip s).mse.stripAnswers = s.mse.stripAnswers ∧ (takeWatch strip s).mse.inProgress = s.mse.inProgress ∧
    (takeWatch strip s).chs = s.chs ∧ (takeWatch strip s).sst = s.sst ∧ (takeWatch strip s).gsu = s.gsu ∧
    (takeWatch strip s).alu = s.alu ∧ (takeWatch strip s).mxd = s.mxd ∧ (takeWatch strip s).resetPin = s.resetPin ∧
    (takeWatch strip s).pending = s.pending := by
  unfold takeWatch onStrip; split
  · split <;> simp
  · simp

@[simp] theorem takeUnwatch_keeps (strip : BitVec 16) (s : State) :
    (takeUnwatch strip s).stc = s.stc ∧ (takeUnwatch strip s).lif = s.lif ∧ (takeUnwatch strip s).rfr = s.rfr ∧
    (takeUnwatch strip s).mse = s.mse ∧ (takeUnwatch strip s).chs = s.chs ∧ (takeUnwatch strip s).sst = s.sst ∧
    (takeUnwatch strip s).gsu = s.gsu ∧ (takeUnwatch strip s).alu = s.alu ∧ (takeUnwatch strip s).mxd = s.mxd ∧
    (takeUnwatch strip s).resetPin = s.resetPin ∧ (takeUnwatch strip s).pending = s.pending := by
  unfold takeUnwatch onStrip; split
  · split <;> simp
  · simp

@[simp] theorem takeRearm_keeps (strip : BitVec 16) (s : State) :
    (takeRearm strip s).stc.station = s.stc.station ∧ (takeRearm strip s).stc.nodeId = s.stc.nodeId ∧
    (takeRearm strip s).stc.stripBase = s.stc.stripBase ∧ (takeRearm strip s).stc.boot = s.stc.boot ∧
    (takeRearm strip s).stc.resetCause = s.stc.resetCause ∧ (takeRearm strip s).stc.stop = s.stc.stop ∧
    (takeRearm strip s).stc.listeningCount = s.stc.listeningCount ∧
    (takeRearm strip s).stc.joiningComplete = s.stc.joiningComplete ∧ (takeRearm strip s).lif = s.lif ∧
    (takeRearm strip s).rfr = s.rfr ∧ (takeRearm strip s).mse.reassembly = s.mse.reassembly ∧
    (takeRearm strip s).mse.announceWaiting = s.mse.announceWaiting ∧
    (takeRearm strip s).mse.stripAnswers = s.mse.stripAnswers ∧
    (takeRearm strip s).mse.meterAnswers = s.mse.meterAnswers ∧ (takeRearm strip s).mse.inProgress = s.mse.inProgress ∧
    (takeRearm strip s).chs = s.chs ∧ (takeRearm strip s).sst = s.sst ∧ (takeRearm strip s).gsu = s.gsu ∧
    (takeRearm strip s).mtu = s.mtu ∧ (takeRearm strip s).resetPin = s.resetPin ∧ (takeRearm strip s).pending = s.pending := by
  unfold takeRearm onStrip; split
  · split <;> simp
  · simp

@[simp] theorem takeClearConditions_keeps (dest : BitVec 5) (mask : Byte) (s : State) :
    (takeClearConditions dest mask s).stc.station = s.stc.station ∧
    (takeClearConditions dest mask s).stc.nodeId = s.stc.nodeId ∧
    (takeClearConditions dest mask s).stc.stripBase = s.stc.stripBase ∧
    (takeClearConditions dest mask s).stc.boot = s.stc.boot ∧
    (takeClearConditions dest mask s).stc.resetCause = s.stc.resetCause ∧
    (takeClearConditions dest mask s).stc.stop = s.stc.stop ∧
    (takeClearConditions dest mask s).stc.listeningCount = s.stc.listeningCount ∧
    (takeClearConditions dest mask s).stc.joiningComplete = s.stc.joiningComplete ∧
    (takeClearConditions dest mask s).lif = s.lif ∧ (takeClearConditions dest mask s).rfr = s.rfr ∧
    (takeClearConditions dest mask s).mse.reassembly = s.mse.reassembly ∧
    (takeClearConditions dest mask s).mse.announceWaiting = s.mse.announceWaiting ∧
    (takeClearConditions dest mask s).mse.stripAnswers = s.mse.stripAnswers ∧
    (takeClearConditions dest mask s).mse.meterAnswers = s.mse.meterAnswers ∧
    (takeClearConditions dest mask s).mse.inProgress = s.mse.inProgress ∧ (takeClearConditions dest mask s).chs = s.chs ∧
    (takeClearConditions dest mask s).sst = s.sst ∧ (takeClearConditions dest mask s).gsu = s.gsu ∧
    (takeClearConditions dest mask s).alu = s.alu ∧ (takeClearConditions dest mask s).mxd = s.mxd ∧
    (takeClearConditions dest mask s).mtu = s.mtu ∧ (takeClearConditions dest mask s).resetPin = s.resetPin ∧
    (takeClearConditions dest mask s).pending = s.pending := by
  unfold takeClearConditions onStation; split
  · simp
  · split <;> simp

@[simp] theorem takeRollCall_keeps (dest : BitVec 5) (s : State) :
    (takeRollCall dest s).stc.station = s.stc.station ∧ (takeRollCall dest s).stc.nodeId = s.stc.nodeId ∧
    (takeRollCall dest s).stc.stripBase = s.stc.stripBase ∧ (takeRollCall dest s).stc.boot = s.stc.boot ∧
    (takeRollCall dest s).stc.resetCause = s.stc.resetCause ∧ (takeRollCall dest s).stc.stop = s.stc.stop ∧
    (takeRollCall dest s).stc.listeningCount = s.stc.listeningCount ∧
    (takeRollCall dest s).stc.joiningComplete = s.stc.joiningComplete ∧ (takeRollCall dest s).lif = s.lif ∧
    (takeRollCall dest s).rfr = s.rfr ∧ (takeRollCall dest s).mse.reassembly = s.mse.reassembly ∧
    (takeRollCall dest s).mse.stripAnswers = s.mse.stripAnswers ∧
    (takeRollCall dest s).mse.meterAnswers = s.mse.meterAnswers ∧
    (takeRollCall dest s).mse.inProgress = s.mse.inProgress ∧ (takeRollCall dest s).chs = s.chs ∧
    (takeRollCall dest s).sst = s.sst ∧ (takeRollCall dest s).gsu = s.gsu ∧ (takeRollCall dest s).alu = s.alu ∧
    (takeRollCall dest s).mxd = s.mxd ∧ (takeRollCall dest s).mtu = s.mtu ∧ (takeRollCall dest s).resetPin = s.resetPin ∧
    (takeRollCall dest s).pending = s.pending := by
  unfold takeRollCall onStation; split
  · simp
  · split <;> simp

@[simp] theorem takeStationReset_keeps (dest : BitVec 5) (straps : BitVec 4) (s : State) :
    (takeStationReset dest straps s).sst = s.sst ∧ (takeStationReset dest straps s).gsu.groups = s.gsu.groups ∧
    (takeStationReset dest straps s).resetPin = s.resetPin ∧ (takeStationReset dest straps s).pending = s.pending := by
  unfold takeStationReset onStation; split
  · simp
  · split <;> simp

@[simp] theorem judgeStripSet_keeps (lane : LaneIx) (h : Word) (payload : List Word) (s : State) :
    (judgeStripSet lane h payload s).stc.station = s.stc.station ∧
    (judgeStripSet lane h payload s).stc.nodeId = s.stc.nodeId ∧
    (judgeStripSet lane h payload s).stc.stripBase = s.stc.stripBase ∧
    (judgeStripSet lane h payload s).stc.boot = s.stc.boot ∧
    (judgeStripSet lane h payload s).stc.resetCause = s.stc.resetCause ∧
    (judgeStripSet lane h payload s).stc.stop = s.stc.stop ∧
    (judgeStripSet lane h payload s).stc.listeningCount = s.stc.listeningCount ∧
    (judgeStripSet lane h payload s).stc.joiningComplete = s.stc.joiningComplete ∧
    (judgeStripSet lane h payload s).lif = s.lif ∧ (judgeStripSet lane h payload s).rfr = s.rfr ∧
    (judgeStripSet lane h payload s).mse.reassembly = s.mse.reassembly ∧
    (judgeStripSet lane h payload s).mse.announceWaiting = s.mse.announceWaiting ∧
    (judgeStripSet lane h payload s).mse.stripAnswers = s.mse.stripAnswers ∧
    (judgeStripSet lane h payload s).mse.meterAnswers = s.mse.meterAnswers ∧
    (judgeStripSet lane h payload s).mse.inProgress = s.mse.inProgress ∧ (judgeStripSet lane h payload s).sst = s.sst ∧
    (judgeStripSet lane h payload s).gsu = s.gsu ∧ (judgeStripSet lane h payload s).alu = s.alu ∧
    (judgeStripSet lane h payload s).mxd = s.mxd ∧ (judgeStripSet lane h payload s).mtu = s.mtu ∧
    (judgeStripSet lane h payload s).resetPin = s.resetPin ∧ (judgeStripSet lane h payload s).pending = s.pending := by
  unfold judgeStripSet; split <;> (try split) <;> simp

@[simp] theorem judgeGroupLevel_keeps (lane : LaneIx) (h : Word) (payload : List Word) (s : State) :
    (judgeGroupLevel lane h payload s).stc.station = s.stc.station ∧
    (judgeGroupLevel lane h payload s).stc.nodeId = s.stc.nodeId ∧
    (judgeGroupLevel lane h payload s).stc.stripBase = s.stc.stripBase ∧
    (judgeGroupLevel lane h payload s).stc.boot = s.stc.boot ∧
    (judgeGroupLevel lane h payload s).stc.resetCause = s.stc.resetCause ∧
    (judgeGroupLevel lane h payload s).stc.stop = s.stc.stop ∧
    (judgeGroupLevel lane h payload s).stc.listeningCount = s.stc.listeningCount ∧
    (judgeGroupLevel lane h payload s).stc.joiningComplete = s.stc.joiningComplete ∧
    (judgeGroupLevel lane h payload s).lif = s.lif ∧ (judgeGroupLevel lane h payload s).rfr = s.rfr ∧
    (judgeGroupLevel lane h payload s).mse.reassembly = s.mse.reassembly ∧
    (judgeGroupLevel lane h payload s).mse.announceWaiting = s.mse.announceWaiting ∧
    (judgeGroupLevel lane h payload s).mse.stripAnswers = s.mse.stripAnswers ∧
    (judgeGroupLevel lane h payload s).mse.meterAnswers = s.mse.meterAnswers ∧
    (judgeGroupLevel lane h payload s).mse.inProgress = s.mse.inProgress ∧
    (judgeGroupLevel lane h payload s).sst = s.sst ∧ (judgeGroupLevel lane h payload s).gsu = s.gsu ∧
    (judgeGroupLevel lane h payload s).alu = s.alu ∧ (judgeGroupLevel lane h payload s).mxd = s.mxd ∧
    (judgeGroupLevel lane h payload s).mtu = s.mtu ∧ (judgeGroupLevel lane h payload s).resetPin = s.resetPin ∧
    (judgeGroupLevel lane h payload s).pending = s.pending := by
  unfold judgeGroupLevel; split <;> (try split) <;> simp

@[simp] theorem completeMessage_keeps (lane : LaneIx) (straps : BitVec 4) (h : Word) (ws : List Word) (s : State) :
    (completeMessage lane straps h ws s).sst = s.sst ∧ (completeMessage lane straps h ws s).gsu.groups = s.gsu.groups ∧
    (completeMessage lane straps h ws s).resetPin = s.resetPin ∧ (completeMessage lane straps h ws s).pending = s.pending := by
  unfold completeMessage judgeOne judgeNone; split <;> (try split) <;> simp

@[simp] theorem takeWord_keeps (lane : LaneIx) (straps : BitVec 4) (w : Word) (s : State) :
    (takeWord lane straps w s).sst = s.sst ∧ (takeWord lane straps w s).gsu.groups = s.gsu.groups ∧
    (takeWord lane straps w s).resetPin = s.resetPin ∧ (takeWord lane straps w s).pending = s.pending := by
  unfold takeWord; dsimp only; split
  · split
    · simp
    · split <;> simp
  · split
    · simp
    · split <;> simp

@[simp] theorem takeSlots_keeps (lane : LaneIx) (straps : BitVec 4) (w0 w1 : Word) (s : State) :
    (takeSlots lane straps w0 w1 s).sst = s.sst ∧ (takeSlots lane straps w0 w1 s).gsu.groups = s.gsu.groups ∧
    (takeSlots lane straps w0 w1 s).resetPin = s.resetPin ∧ (takeSlots lane straps w0 w1 s).pending = s.pending := by
  unfold takeSlots; dsimp only; split <;> simp

@[simp] theorem lostFrame_keeps (lane : LaneIx) (s : State) :
    (lostFrame lane s).stc = s.stc ∧ (lostFrame lane s).lif = s.lif ∧ (lostFrame lane s).rfr = s.rfr ∧
    (lostFrame lane s).mse.announceWaiting = s.mse.announceWaiting ∧ (lostFrame lane s).mse.notices = s.mse.notices ∧
    (lostFrame lane s).mse.stripAnswers = s.mse.stripAnswers ∧ (lostFrame lane s).mse.meterAnswers = s.mse.meterAnswers ∧
    (lostFrame lane s).mse.inProgress = s.mse.inProgress ∧ (lostFrame lane s).chs = s.chs ∧
    (lostFrame lane s).sst = s.sst ∧ (lostFrame lane s).gsu = s.gsu ∧ (lostFrame lane s).alu = s.alu ∧
    (lostFrame lane s).mxd = s.mxd ∧ (lostFrame lane s).mtu = s.mtu ∧ (lostFrame lane s).resetPin = s.resetPin ∧
    (lostFrame lane s).pending = s.pending := by
  simp [lostFrame]

/-! ### Arrivals -/

@[simp] theorem storeHeader_keeps (lane : LaneIx) (ws : Table 54 Word) (s : State) :
    (storeHeader lane ws s).stc = s.stc ∧ (storeHeader lane ws s).rfr = s.rfr ∧ (storeHeader lane ws s).mse = s.mse ∧
    (storeHeader lane ws s).chs = s.chs ∧ (storeHeader lane ws s).sst = s.sst ∧ (storeHeader lane ws s).gsu = s.gsu ∧
    (storeHeader lane ws s).alu = s.alu ∧ (storeHeader lane ws s).mxd = s.mxd ∧ (storeHeader lane ws s).mtu = s.mtu ∧
    (storeHeader lane ws s).resetPin = s.resetPin ∧ (storeHeader lane ws s).pending = s.pending := by
  simp [storeHeader]

@[simp] theorem takeContents_keeps (lane : LaneIx) (straps : BitVec 4) (ws : Table 54 Word) (s : State) :
    (takeContents lane straps ws s).sst = s.sst ∧ (takeContents lane straps ws s).gsu.groups = s.gsu.groups ∧
    (takeContents lane straps ws s).resetPin = s.resetPin ∧ (takeContents lane straps ws s).pending = s.pending := by
  simp [takeContents]

@[simp] theorem leavePresent_keeps (lane : LaneIx) (s : State) :
    (leavePresent lane s).stc.station = s.stc.station ∧ (leavePresent lane s).stc.nodeId = s.stc.nodeId ∧
    (leavePresent lane s).stc.stripBase = s.stc.stripBase ∧ (leavePresent lane s).stc.boot = s.stc.boot ∧
    (leavePresent lane s).stc.resetCause = s.stc.resetCause ∧ (leavePresent lane s).stc.stop = s.stc.stop ∧
    (leavePresent lane s).stc.listeningCount = s.stc.listeningCount ∧
    (leavePresent lane s).stc.joiningComplete = s.stc.joiningComplete ∧ (leavePresent lane s).rfr = s.rfr ∧
    (leavePresent lane s).mse.announceWaiting = s.mse.announceWaiting ∧
    (leavePresent lane s).mse.stripAnswers = s.mse.stripAnswers ∧
    (leavePresent lane s).mse.meterAnswers = s.mse.meterAnswers ∧
    (leavePresent lane s).mse.inProgress = s.mse.inProgress ∧ (leavePresent lane s).sst = s.sst ∧
    (leavePresent lane s).gsu.groups = s.gsu.groups ∧ (leavePresent lane s).mtu = s.mtu ∧
    (leavePresent lane s).resetPin = s.resetPin ∧ (leavePresent lane s).pending = s.pending := by
  simp [leavePresent]

@[simp] theorem losePeer_keeps (lane : LaneIx) (s : State) :
    (losePeer lane s).stc.station = s.stc.station ∧ (losePeer lane s).stc.nodeId = s.stc.nodeId ∧
    (losePeer lane s).stc.stripBase = s.stc.stripBase ∧ (losePeer lane s).stc.boot = s.stc.boot ∧
    (losePeer lane s).stc.resetCause = s.stc.resetCause ∧ (losePeer lane s).stc.stop = s.stc.stop ∧
    (losePeer lane s).stc.listeningCount = s.stc.listeningCount ∧
    (losePeer lane s).stc.joiningComplete = s.stc.joiningComplete ∧ (losePeer lane s).rfr = s.rfr ∧
    (losePeer lane s).mse.announceWaiting = s.mse.announceWaiting ∧
    (losePeer lane s).mse.stripAnswers = s.mse.stripAnswers ∧ (losePeer lane s).mse.meterAnswers = s.mse.meterAnswers ∧
    (losePeer lane s).mse.inProgress = s.mse.inProgress ∧ (losePeer lane s).sst = s.sst ∧
    (losePeer lane s).gsu.groups = s.gsu.groups ∧ (losePeer lane s).mtu = s.mtu ∧
    (losePeer lane s).resetPin = s.resetPin ∧ (losePeer lane s).pending = s.pending := by
  simp [losePeer]

@[simp] theorem actOnPresence_keeps (lane : LaneIx) (straps : BitVec 4) (v : Option (Table 54 Word)) (e : PresenceEvent) (s : State) :
    (actOnPresence lane straps v e s).sst = s.sst ∧ (actOnPresence lane straps v e s).gsu.groups = s.gsu.groups ∧
    (actOnPresence lane straps v e s).resetPin = s.resetPin ∧ (actOnPresence lane straps v e s).pending = s.pending := by
  unfold actOnPresence; split <;> (try split) <;> simp

@[simp] theorem peerArrival_keeps (lane : LaneIx) (straps : BitVec 4) (v : Option (Table 54 Word)) (s : State) :
    (peerArrival lane straps v s).sst = s.sst ∧ (peerArrival lane straps v s).gsu.groups = s.gsu.groups ∧
    (peerArrival lane straps v s).resetPin = s.resetPin ∧ (peerArrival lane straps v s).pending = s.pending := by
  simp [peerArrival]

@[simp] theorem watchedArrival_keeps (v : Option (Table 54 Word)) (s : State) :
    (watchedArrival v s).stc.nodeId = s.stc.nodeId ∧ (watchedArrival v s).stc.stripBase = s.stc.stripBase ∧
    (watchedArrival v s).stc.boot = s.stc.boot ∧ (watchedArrival v s).stc.resetCause = s.stc.resetCause ∧
    (watchedArrival v s).stc.conditions = s.stc.conditions ∧
    (watchedArrival v s).stc.listeningCount = s.stc.listeningCount ∧ (watchedArrival v s).rfr = s.rfr ∧
    (watchedArrival v s).mse.reassembly = s.mse.reassembly ∧
    (watchedArrival v s).mse.announceWaiting = s.mse.announceWaiting ∧ (watchedArrival v s).mse.notices = s.mse.notices ∧
    (watchedArrival v s).mse.stripAnswers = s.mse.stripAnswers ∧
    (watchedArrival v s).mse.meterAnswers = s.mse.meterAnswers ∧ (watchedArrival v s).chs = s.chs ∧
    (watchedArrival v s).sst = s.sst ∧ (watchedArrival v s).gsu = s.gsu ∧ (watchedArrival v s).alu = s.alu ∧
    (watchedArrival v s).mxd = s.mxd ∧ (watchedArrival v s).mtu = s.mtu ∧ (watchedArrival v s).resetPin = s.resetPin ∧
    (watchedArrival v s).pending = s.pending := by
  unfold watchedArrival; dsimp only; split <;> simp

@[simp] theorem cleanReadback_keeps (s : State) :
    (cleanReadback s).stc.station = s.stc.station ∧ (cleanReadback s).stc.nodeId = s.stc.nodeId ∧
    (cleanReadback s).stc.stripBase = s.stc.stripBase ∧ (cleanReadback s).stc.boot = s.stc.boot ∧
    (cleanReadback s).stc.resetCause = s.stc.resetCause ∧ (cleanReadback s).stc.stop = s.stc.stop ∧
    (cleanReadback s).stc.conditions = s.stc.conditions ∧ (cleanReadback s).stc.listeningCount = s.stc.listeningCount ∧
    (cleanReadback s).rfr = s.rfr ∧ (cleanReadback s).mse = s.mse ∧ (cleanReadback s).chs = s.chs ∧
    (cleanReadback s).sst = s.sst ∧ (cleanReadback s).gsu = s.gsu ∧ (cleanReadback s).alu = s.alu ∧
    (cleanReadback s).mxd = s.mxd ∧ (cleanReadback s).mtu = s.mtu ∧ (cleanReadback s).resetPin = s.resetPin ∧
    (cleanReadback s).pending = s.pending := by
  unfold cleanReadback; dsimp only; split <;> simp

@[simp] theorem mismatchReadback_keeps (s : State) :
    (mismatchReadback s).stc.nodeId = s.stc.nodeId ∧ (mismatchReadback s).stc.stripBase = s.stc.stripBase ∧
    (mismatchReadback s).stc.boot = s.stc.boot ∧ (mismatchReadback s).stc.resetCause = s.stc.resetCause ∧
    (mismatchReadback s).stc.conditions = s.stc.conditions ∧
    (mismatchReadback s).stc.listeningCount = s.stc.listeningCount ∧ (mismatchReadback s).rfr = s.rfr ∧
    (mismatchReadback s).mse.reassembly = s.mse.reassembly ∧
    (mismatchReadback s).mse.announceWaiting = s.mse.announceWaiting ∧ (mismatchReadback s).mse.notices = s.mse.notices ∧
    (mismatchReadback s).mse.stripAnswers = s.mse.stripAnswers ∧
    (mismatchReadback s).mse.meterAnswers = s.mse.meterAnswers ∧ (mismatchReadback s).chs = s.chs ∧
    (mismatchReadback s).sst = s.sst ∧ (mismatchReadback s).gsu = s.gsu ∧ (mismatchReadback s).alu = s.alu ∧
    (mismatchReadback s).mxd = s.mxd ∧ (mismatchReadback s).mtu = s.mtu ∧ (mismatchReadback s).resetPin = s.resetPin ∧
    (mismatchReadback s).pending = s.pending := by
  unfold mismatchReadback; dsimp only; split <;> simp

@[simp] theorem readback_keeps (v d : Option (Table 54 Word)) (s : State) :
    (readback v d s).stc.nodeId = s.stc.nodeId ∧ (readback v d s).stc.stripBase = s.stc.stripBase ∧
    (readback v d s).stc.boot = s.stc.boot ∧ (readback v d s).stc.resetCause = s.stc.resetCause ∧
    (readback v d s).stc.conditions = s.stc.conditions ∧ (readback v d s).stc.listeningCount = s.stc.listeningCount ∧
    (readback v d s).rfr = s.rfr ∧ (readback v d s).mse.reassembly = s.mse.reassembly ∧
    (readback v d s).mse.announceWaiting = s.mse.announceWaiting ∧ (readback v d s).mse.notices = s.mse.notices ∧
    (readback v d s).mse.stripAnswers = s.mse.stripAnswers ∧ (readback v d s).mse.meterAnswers = s.mse.meterAnswers ∧
    (readback v d s).chs = s.chs ∧ (readback v d s).sst = s.sst ∧ (readback v d s).gsu = s.gsu ∧
    (readback v d s).alu = s.alu ∧ (readback v d s).mxd = s.mxd ∧ (readback v d s).mtu = s.mtu ∧
    (readback v d s).resetPin = s.resetPin ∧ (readback v d s).pending = s.pending := by
  unfold readback; split <;> simp

@[simp] theorem ownArrival_keeps (v : Option (Table 54 Word)) (s : State) :
    (ownArrival v s).stc.nodeId = s.stc.nodeId ∧ (ownArrival v s).stc.stripBase = s.stc.stripBase ∧
    (ownArrival v s).stc.boot = s.stc.boot ∧ (ownArrival v s).stc.resetCause = s.stc.resetCause ∧
    (ownArrival v s).stc.conditions = s.stc.conditions ∧ (ownArrival v s).stc.listeningCount = s.stc.listeningCount ∧
    (ownArrival v s).rfr = s.rfr ∧ (ownArrival v s).mse.reassembly = s.mse.reassembly ∧
    (ownArrival v s).mse.announceWaiting = s.mse.announceWaiting ∧ (ownArrival v s).mse.notices = s.mse.notices ∧
    (ownArrival v s).mse.stripAnswers = s.mse.stripAnswers ∧ (ownArrival v s).mse.meterAnswers = s.mse.meterAnswers ∧
    (ownArrival v s).chs = s.chs ∧ (ownArrival v s).sst = s.sst ∧ (ownArrival v s).gsu = s.gsu ∧
    (ownArrival v s).alu = s.alu ∧ (ownArrival v s).mxd = s.mxd ∧ (ownArrival v s).mtu = s.mtu ∧
    (ownArrival v s).resetPin = s.resetPin ∧ (ownArrival v s).pending = s.pending := by
  unfold ownArrival; split
  · simp
  · split
    · split <;> simp
    · simp

@[simp] theorem laneArrives_keeps (lane : LaneIx) (rx : Reception) (straps : BitVec 4) (s : State) :
    (laneArrives lane rx straps s).sst = s.sst ∧ (laneArrives lane rx straps s).gsu.groups = s.gsu.groups ∧
    (laneArrives lane rx straps s).resetPin = s.resetPin ∧ (laneArrives lane rx straps s).pending = s.pending := by
  unfold laneArrives; split <;> simp

/-! ### Frames -/

@[simp] theorem changesAtStrobe_keeps (e : StrobeEvent) (s : State) :
    (changesAtStrobe e s).stc.station = s.stc.station ∧ (changesAtStrobe e s).stc.nodeId = s.stc.nodeId ∧
    (changesAtStrobe e s).stc.stripBase = s.stc.stripBase ∧ (changesAtStrobe e s).stc.boot = s.stc.boot ∧
    (changesAtStrobe e s).stc.resetCause = s.stc.resetCause ∧ (changesAtStrobe e s).stc.stop = s.stc.stop ∧
    (changesAtStrobe e s).stc.listeningCount = s.stc.listeningCount ∧
    (changesAtStrobe e s).stc.joiningComplete = s.stc.joiningComplete ∧ (changesAtStrobe e s).lif = s.lif ∧
    (changesAtStrobe e s).rfr = s.rfr ∧ (changesAtStrobe e s).mse.reassembly = s.mse.reassembly ∧
    (changesAtStrobe e s).mse.announceWaiting = s.mse.announceWaiting ∧
    (changesAtStrobe e s).mse.stripAnswers = s.mse.stripAnswers ∧
    (changesAtStrobe e s).mse.meterAnswers = s.mse.meterAnswers ∧
    (changesAtStrobe e s).mse.inProgress = s.mse.inProgress ∧ (changesAtStrobe e s).mtu = s.mtu ∧
    (changesAtStrobe e s).resetPin = s.resetPin ∧ (changesAtStrobe e s).pending = s.pending := by
  unfold changesAtStrobe; dsimp only; split <;> split <;> simp

@[simp] theorem rampsAtStrobe_keeps (b : Bool) (s : State) :
    (rampsAtStrobe b s).stc = s.stc ∧ (rampsAtStrobe b s).lif = s.lif ∧ (rampsAtStrobe b s).rfr = s.rfr ∧
    (rampsAtStrobe b s).mse = s.mse ∧ (rampsAtStrobe b s).chs = s.chs ∧ (rampsAtStrobe b s).sst = s.sst ∧
    (rampsAtStrobe b s).gsu = s.gsu ∧ (rampsAtStrobe b s).alu = s.alu ∧ (rampsAtStrobe b s).mtu = s.mtu ∧
    (rampsAtStrobe b s).resetPin = s.resetPin ∧ (rampsAtStrobe b s).pending = s.pending := by
  unfold rampsAtStrobe; split <;> simp

@[simp] theorem openFrame_keeps (d : Option (Table 54 Word)) (s : State) :
    (openFrame d s).stc = s.stc ∧ (openFrame d s).rfr = s.rfr ∧ (openFrame d s).mse = s.mse ∧
    (openFrame d s).chs = s.chs ∧ (openFrame d s).sst = s.sst ∧ (openFrame d s).gsu = s.gsu ∧
    (openFrame d s).alu = s.alu ∧ (openFrame d s).mxd = s.mxd ∧ (openFrame d s).mtu = s.mtu ∧
    (openFrame d s).resetPin = s.resetPin ∧ (openFrame d s).pending = s.pending := by
  simp [openFrame]

@[simp] theorem openUndriven_keeps (s : State) :
    (openUndriven s).stc = s.stc ∧ (openUndriven s).rfr = s.rfr ∧ (openUndriven s).mse = s.mse ∧
    (openUndriven s).chs = s.chs ∧ (openUndriven s).sst = s.sst ∧ (openUndriven s).gsu = s.gsu ∧
    (openUndriven s).alu = s.alu ∧ (openUndriven s).mtu = s.mtu ∧ (openUndriven s).resetPin = s.resetPin ∧
    (openUndriven s).pending = s.pending := by
  simp [openUndriven]

@[simp] theorem openJoining_keeps (h0 h1 h2 : Word) (s : State) :
    (openJoining h0 h1 h2 s).stc = s.stc ∧ (openJoining h0 h1 h2 s).rfr = s.rfr ∧ (openJoining h0 h1 h2 s).mse = s.mse ∧
    (openJoining h0 h1 h2 s).chs = s.chs ∧ (openJoining h0 h1 h2 s).sst = s.sst ∧ (openJoining h0 h1 h2 s).gsu = s.gsu ∧
    (openJoining h0 h1 h2 s).alu = s.alu ∧ (openJoining h0 h1 h2 s).mtu = s.mtu ∧
    (openJoining h0 h1 h2 s).resetPin = s.resetPin ∧ (openJoining h0 h1 h2 s).pending = s.pending := by
  simp [openJoining]

@[simp] theorem ownWordsEnter_keeps (s : State) :
    (ownWordsEnter s).stc.station = s.stc.station ∧ (ownWordsEnter s).stc.nodeId = s.stc.nodeId ∧
    (ownWordsEnter s).stc.stripBase = s.stc.stripBase ∧ (ownWordsEnter s).stc.boot = s.stc.boot ∧
    (ownWordsEnter s).stc.resetCause = s.stc.resetCause ∧ (ownWordsEnter s).stc.stop = s.stc.stop ∧
    (ownWordsEnter s).stc.listeningCount = s.stc.listeningCount ∧
    (ownWordsEnter s).stc.joiningComplete = s.stc.joiningComplete ∧ (ownWordsEnter s).lif = s.lif ∧
    (ownWordsEnter s).rfr = s.rfr ∧ (ownWordsEnter s).mse.reassembly = s.mse.reassembly ∧
    (ownWordsEnter s).mse.announceWaiting = s.mse.announceWaiting ∧
    (ownWordsEnter s).mse.stripAnswers = s.mse.stripAnswers ∧ (ownWordsEnter s).mse.meterAnswers = s.mse.meterAnswers ∧
    (ownWordsEnter s).mse.inProgress = s.mse.inProgress ∧ (ownWordsEnter s).chs = s.chs ∧ (ownWordsEnter s).sst = s.sst ∧
    (ownWordsEnter s).gsu = s.gsu ∧ (ownWordsEnter s).alu = s.alu ∧ (ownWordsEnter s).mtu = s.mtu ∧
    (ownWordsEnter s).resetPin = s.resetPin ∧ (ownWordsEnter s).pending = s.pending := by
  simp [ownWordsEnter]

@[simp] theorem beginMessage_keeps (c : TxClass) (ws : List Word) (s : State) :
    ((beginMessage c ws s).2).stc = s.stc ∧ ((beginMessage c ws s).2).lif = s.lif ∧
    ((beginMessage c ws s).2).rfr = s.rfr ∧ ((beginMessage c ws s).2).mse.reassembly = s.mse.reassembly ∧
    ((beginMessage c ws s).2).mse.announceWaiting = s.mse.announceWaiting ∧
    ((beginMessage c ws s).2).mse.notices = s.mse.notices ∧
    ((beginMessage c ws s).2).mse.stripAnswers = s.mse.stripAnswers ∧
    ((beginMessage c ws s).2).mse.meterAnswers = s.mse.meterAnswers ∧ ((beginMessage c ws s).2).chs = s.chs ∧
    ((beginMessage c ws s).2).sst = s.sst ∧ ((beginMessage c ws s).2).gsu = s.gsu ∧
    ((beginMessage c ws s).2).alu = s.alu ∧ ((beginMessage c ws s).2).mxd = s.mxd ∧
    ((beginMessage c ws s).2).mtu = s.mtu ∧ ((beginMessage c ws s).2).resetPin = s.resetPin ∧
    ((beginMessage c ws s).2).pending = s.pending := by
  simp [beginMessage]

@[simp] theorem beginNext_keeps (s : State) :
    ((beginNext s).2).stc = s.stc ∧ ((beginNext s).2).lif = s.lif ∧ ((beginNext s).2).rfr = s.rfr ∧
    ((beginNext s).2).mse.reassembly = s.mse.reassembly ∧ ((beginNext s).2).chs = s.chs ∧ ((beginNext s).2).sst = s.sst ∧
    ((beginNext s).2).gsu = s.gsu ∧ ((beginNext s).2).alu = s.alu ∧ ((beginNext s).2).mxd = s.mxd ∧
    ((beginNext s).2).resetPin = s.resetPin ∧ ((beginNext s).2).pending = s.pending := by
  unfold beginNext; split
  · simp
  · split
    · simp
    · split
      · simp
      · split <;> simp

@[simp] theorem fillSlot_keeps (s : State) :
    ((fillSlot s).2).stc = s.stc ∧ ((fillSlot s).2).lif = s.lif ∧ ((fillSlot s).2).rfr = s.rfr ∧
    ((fillSlot s).2).mse.reassembly = s.mse.reassembly ∧ ((fillSlot s).2).chs = s.chs ∧ ((fillSlot s).2).sst = s.sst ∧
    ((fillSlot s).2).gsu = s.gsu ∧ ((fillSlot s).2).alu = s.alu ∧ ((fillSlot s).2).mxd = s.mxd ∧
    ((fillSlot s).2).resetPin = s.resetPin ∧ ((fillSlot s).2).pending = s.pending := by
  unfold fillSlot; split <;> (try split) <;> simp

@[simp] theorem openContributing_keeps (h0 h1 h2 : Word) (s : State) :
    (openContributing h0 h1 h2 s).stc.station = s.stc.station ∧ (openContributing h0 h1 h2 s).stc.nodeId = s.stc.nodeId ∧
    (openContributing h0 h1 h2 s).stc.stripBase = s.stc.stripBase ∧ (openContributing h0 h1 h2 s).stc.boot = s.stc.boot ∧
    (openContributing h0 h1 h2 s).stc.resetCause = s.stc.resetCause ∧
    (openContributing h0 h1 h2 s).stc.stop = s.stc.stop ∧
    (openContributing h0 h1 h2 s).stc.listeningCount = s.stc.listeningCount ∧
    (openContributing h0 h1 h2 s).stc.joiningComplete = s.stc.joiningComplete ∧
    (openContributing h0 h1 h2 s).rfr = s.rfr ∧ (openContributing h0 h1 h2 s).mse.reassembly = s.mse.reassembly ∧
    (openContributing h0 h1 h2 s).chs = s.chs ∧ (openContributing h0 h1 h2 s).sst = s.sst ∧
    (openContributing h0 h1 h2 s).gsu = s.gsu ∧ (openContributing h0 h1 h2 s).alu = s.alu ∧
    (openContributing h0 h1 h2 s).resetPin = s.resetPin ∧ (openContributing h0 h1 h2 s).pending = s.pending := by
  simp [openContributing]

@[simp] theorem openByStation_keeps (b : State) (s : State) :
    (openByStation b s).stc.station = s.stc.station ∧ (openByStation b s).stc.nodeId = s.stc.nodeId ∧
    (openByStation b s).stc.stripBase = s.stc.stripBase ∧ (openByStation b s).stc.boot = s.stc.boot ∧
    (openByStation b s).stc.resetCause = s.stc.resetCause ∧ (openByStation b s).stc.stop = s.stc.stop ∧
    (openByStation b s).stc.listeningCount = s.stc.listeningCount ∧
    (openByStation b s).stc.joiningComplete = s.stc.joiningComplete ∧ (openByStation b s).rfr = s.rfr ∧
    (openByStation b s).mse.reassembly = s.mse.reassembly ∧ (openByStation b s).chs = s.chs ∧
    (openByStation b s).sst = s.sst ∧ (openByStation b s).gsu = s.gsu ∧ (openByStation b s).alu = s.alu ∧
    (openByStation b s).resetPin = s.resetPin ∧ (openByStation b s).pending = s.pending := by
  unfold openByStation; dsimp only; split <;> simp

@[simp] theorem strobeInBooting_keeps (e : StrobeEvent) (s : State) :
    (strobeInBooting e s).stc = s.stc ∧ (strobeInBooting e s).rfr = s.rfr ∧ (strobeInBooting e s).mse = s.mse ∧
    (strobeInBooting e s).sst = s.sst ∧ (strobeInBooting e s).gsu = s.gsu ∧ (strobeInBooting e s).alu = s.alu ∧
    (strobeInBooting e s).mxd = s.mxd ∧ (strobeInBooting e s).mtu = s.mtu ∧ (strobeInBooting e s).resetPin = s.resetPin ∧
    (strobeInBooting e s).pending = s.pending := by
  unfold strobeInBooting; dsimp only; split <;> simp

@[simp] theorem formFrame_keeps (b : Bool) (inputs : Table 48 Sample) (s : State) :
    (formFrame b inputs s).stc = s.stc ∧ (formFrame b inputs s).lif = s.lif ∧ (formFrame b inputs s).rfr = s.rfr ∧
    (formFrame b inputs s).mse = s.mse ∧ (formFrame b inputs s).chs = s.chs ∧ (formFrame b inputs s).sst = s.sst ∧
    (formFrame b inputs s).gsu = s.gsu ∧ (formFrame b inputs s).alu = s.alu ∧ (formFrame b inputs s).mtu = s.mtu ∧
    (formFrame b inputs s).resetPin = s.resetPin ∧ (formFrame b inputs s).pending = s.pending := by
  simp [formFrame]

@[simp] theorem strobeTaken_keeps (p : Position) (inputs : Table 48 Sample) (s : State) :
    (strobeTaken p inputs s).stc.nodeId = s.stc.nodeId ∧ (strobeTaken p inputs s).stc.stripBase = s.stc.stripBase ∧
    (strobeTaken p inputs s).stc.boot = s.stc.boot ∧ (strobeTaken p inputs s).stc.resetCause = s.stc.resetCause ∧
    (strobeTaken p inputs s).stc.stop = s.stc.stop ∧ (strobeTaken p inputs s).resetPin = s.resetPin ∧
    (strobeTaken p inputs s).pending = s.pending := by
  unfold strobeTaken; dsimp only; split <;> simp

end Sys2Proof.Machine
end

