-- ==== Sys2Proof/Laws/Reads.lean ====
section
/-! SUPPORT. Which blocks each computed value reads: where those blocks agree, the value does. -/

namespace Sys2Proof.Machine

variable {s t : State}

theorem channelAt_congr (h : t.sst = s.sst) (c : Chan) : channelAt t c = channelAt s c := by
  simp [channelAt, h]

theorem pathAt_congr (h : t.mxd = s.mxd) (c : Chan) : pathAt t c = pathAt s c := by
  simp [pathAt, h]

theorem alignAt_congr (h : t.alu = s.alu) (c : Chan) : alignAt t c = alignAt s c := by
  simp [alignAt, h]

theorem laneAt_congr (h : t.lif = s.lif) (n : LaneIx) : laneAt t n = laneAt s n := by
  simp [laneAt, h]

theorem takesChanges_congr (h : t.stc.station = s.stc.station) : takesChanges t = takesChanges s := by
  simp [takesChanges, h]

/-- A send's target reads the Channel Table, the Group Table with the gating, and the alignment state (R57, R59). -/
theorem sendTarget_congr (h1 : t.sst = s.sst) (h2 : t.gsu = s.gsu) (h3 : t.alu = s.alu) (c : Chan) (k : SendIx) :
    sendTarget t c k = sendTarget s c k := by
  cases s; cases t; cases h1; cases h2; cases h3; rfl

/-- A meter target reads the same blocks (R58, R59). -/
theorem meterTarget_congr (h1 : t.sst = s.sst) (h2 : t.gsu = s.gsu) (h3 : t.alu = s.alu) (c : Chan) :
    meterTarget t c = meterTarget s c := by
  cases s; cases t; cases h1; cases h2; cases h3; rfl

/-- The soloed state reads the Channel Table and the Group Table (R80). -/
theorem soloed_congr (h1 : t.sst = s.sst) (h2 : t.gsu.groups = s.gsu.groups) (c : Chan) : soloed t c = soloed s c := by
  simp only [soloed, channelAt, h1, h2]

/-- A pass of a settling reads the Channel Table, the Lane Table and the node ID beside the alignment state (R97). -/
theorem settlingPass_congr (h1 : t.sst = s.sst) (h2 : t.lif = s.lif) (h3 : t.stc.nodeId = s.stc.nodeId) (a : Alu) :
    settlingPass t a = settlingPass s a := by
  obtain ⟨stc, _, _, _, _, _, _, _, _, _, _, _⟩ := s
  obtain ⟨stc', _, _, _, _, _, _, _, _, _, _, _⟩ := t
  obtain ⟨_, n, _, _, _, _, _, _, _⟩ := stc
  obtain ⟨_, n', _, _, _, _, _, _, _⟩ := stc'
  cases h1; cases h2; cases h3; rfl

/-- A slot's output delay target reads the aligned depths (R103). -/
theorem slotTarget_congr (h : t.alu = s.alu) (b : Bus) : slotTarget t b = slotTarget s b := by
  simp only [slotTarget, h]

end Sys2Proof.Machine
end

