-- ==== Sys2Proof/Laws/Table.lean ====
section
/-! SUPPORT. What each table operation does, said once. -/

namespace Sys2Proof.Table

variable {n : Nat} {α : Type}

@[simp] theorem get_make (f : Fin n → α) (i : Fin n) : (make f).get i = f i := by
  simp [make, get]

@[simp] theorem get_fill (x : α) (i : Fin n) : (fill n x).get i = x := by
  simp [fill, get]

@[simp] theorem get_put_self (t : Table n α) (i : Fin n) (x : α) : (t.put i x).get i = x := by
  simp [put, get]

theorem get_put_ne (t : Table n α) {i j : Fin n} (h : j ≠ i) (x : α) : (t.put i x).get j = t.get j := by
  have hv : i.val ≠ j.val := fun e => h (Fin.ext e.symm)
  simp [put, get, hv]

theorem get_put (t : Table n α) (i j : Fin n) (x : α) : (t.put i x).get j = if j = i then x else t.get j := by
  by_cases h : j = i
  · subst h; simp
  · simp [h, get_put_ne]

theorem ext_get {t u : Table n α} (h : ∀ i, t.get i = u.get i) : t = u := by
  obtain ⟨a, ha⟩ := t
  obtain ⟨b, hb⟩ := u
  have : a = b := List.ext_getElem (ha.trans hb.symm) fun i h1 _ => by
    simpa [get] using h ⟨i, by omega⟩
  subst this; rfl

@[simp] theorem make_get (t : Table n α) : make t.get = t :=
  ext_get fun i => by simp

@[simp] theorem put_get (t : Table n α) (i : Fin n) : t.put i (t.get i) = t :=
  ext_get fun j => by
    rw [get_put]; split
    · next h => rw [h]
    · rfl

@[simp] theorem get_push_zero (x : α) (t : Table (n + 1) α) : (push x t).get 0 = x := by
  simp [push, get]

theorem get_push_succ (x : α) (t : Table (n + 1) α) (i : Fin n) :
    (push x t).get i.succ = t.get i.castSucc := by
  simp [push, get]

theorem mem_cells {t : Table n α} {x : α} : x ∈ t.cells ↔ ∃ i, t.get i = x := by
  constructor
  · intro h
    obtain ⟨i, hi, rfl⟩ := List.getElem_of_mem h
    exact ⟨⟨i, t.len ▸ hi⟩, rfl⟩
  · rintro ⟨i, rfl⟩
    exact List.getElem_mem _

theorem any_cells (t : Table n α) (p : α → Bool) : t.cells.any p = true ↔ ∃ i, p (t.get i) = true := by
  rw [List.any_eq_true]
  constructor
  · rintro ⟨x, hx, hp⟩
    obtain ⟨i, rfl⟩ := mem_cells.mp hx
    exact ⟨i, hp⟩
  · rintro ⟨i, hp⟩
    exact ⟨t.get i, mem_cells.mpr ⟨i, rfl⟩, hp⟩

end Sys2Proof.Table
end

