-- ==== Sys2Proof/Laws/Align.lean ====
section
/-! SUPPORT. Depth Alignment: every settling ends (R97), what it ends in, which channels it latches, and the delays it posts
(R98, R101 to R103). -/

namespace Sys2Proof.Machine

/-! ### The larger of two needs -/

theorem le_maxNeed_left (d : Depth) (y : Need) : ∃ e, maxNeed (some d) y = some e ∧ d ≤ e := by
  cases y with
  | none => exact ⟨d, rfl, le_refl d⟩
  | some z =>
    by_cases h : d < z
    · exact ⟨z, by simp [maxNeed, h], le_of_lt h⟩
    · exact ⟨d, by simp [maxNeed, h], le_refl d⟩

theorem le_maxNeed_right (x : Need) (d : Depth) : ∃ e, maxNeed x (some d) = some e ∧ d ≤ e := by
  cases x with
  | none => exact ⟨d, rfl, le_refl d⟩
  | some z =>
    by_cases h : z < d
    · exact ⟨d, by simp [maxNeed, h], le_refl d⟩
    · exact ⟨z, by simp [maxNeed, h], not_lt.mp h⟩

theorem maxNeed_eq (x y : Need) : maxNeed x y = x ∨ maxNeed x y = y := by
  cases x with
  | none => exact .inr rfl
  | some a => cases y with
    | none => exact .inl rfl
    | some b =>
      by_cases h : a < b
      · exact .inr (by simp [maxNeed, h])
      · exact .inl (by simp [maxNeed, h])

/-- A fold of needs holds at least each need it takes in, and at least what it began with. -/
theorem foldNeed_ge {β : Type} (f : β → Need) (l : List β) (x : Need) (d : Depth)
    (h : x = some d ∨ ∃ i ∈ l, f i = some d) : ∃ e, l.foldl (fun acc i => maxNeed acc (f i)) x = some e ∧ d ≤ e := by
  induction l generalizing x d with
  | nil =>
    rcases h with h | ⟨i, hi, _⟩
    · exact ⟨d, h, le_refl d⟩
    · cases hi
  | cons i l ih =>
    rw [List.foldl_cons]
    rcases h with h | ⟨j, hj, hf⟩
    · obtain ⟨e, he, hle⟩ := le_maxNeed_left d (f i)
      obtain ⟨e', he', hle'⟩ := ih _ e (.inl (h ▸ he))
      exact ⟨e', he', hle.trans hle'⟩
    · rcases List.mem_cons.mp hj with rfl | hj
      · obtain ⟨e, he, hle⟩ := le_maxNeed_right x d
        obtain ⟨e', he', hle'⟩ := ih _ e (.inl (hf ▸ he))
        exact ⟨e', he', hle.trans hle'⟩
      · exact ih _ d (.inr ⟨j, hj, hf⟩)

/-- A fold of needs is what it began with or one of the needs it took in. -/
theorem foldNeed_mem {β : Type} (f : β → Need) (l : List β) (x : Need) (d : Depth)
    (h : l.foldl (fun acc i => maxNeed acc (f i)) x = some d) : x = some d ∨ ∃ i ∈ l, f i = some d := by
  induction l generalizing x with
  | nil => exact .inl h
  | cons i l ih =>
    rw [List.foldl_cons] at h
    rcases ih _ h with h | ⟨j, hj, hf⟩
    · rcases maxNeed_eq x (f i) with e | e
      · exact .inl (e ▸ h)
      · exact .inr ⟨i, List.mem_cons_self, e ▸ h⟩
    · exact .inr ⟨j, List.mem_cons_of_mem _ hj, hf⟩

/-- A fold of needs depends on the needs alone. -/
theorem foldNeed_congr {β : Type} (f g : β → Need) (l : List β) (x : Need) (h : ∀ i, f i = g i) :
    l.foldl (fun acc i => maxNeed acc (f i)) x = l.foldl (fun acc i => maxNeed acc (g i)) x := by
  rw [funext h]

/-! ### One pass -/

theorem evaluate_eq (src : Source) (aligned : Table 48 Depth) :
    evaluate src aligned = .normal 0 ∨ ∃ b, src = .busReturn b ∧
      ((aligned.get b = 14 ∧ evaluate src aligned = .overdepth) ∨
        ∃ d : Depth, evaluate src aligned = .normal d ∧ d.val = (aligned.get b).val + 1) := by
  cases src with
  | input n => exact .inl rfl
  | none => exact .inl rfl
  | busReturn b =>
    refine .inr ⟨b, rfl, ?_⟩
    by_cases h : (aligned.get b).val + 1 < 15
    · exact .inr ⟨⟨_, h⟩, by simp [evaluate, h], rfl⟩
    · have := (aligned.get b).isLt
      exact .inl ⟨Fin.ext (by show _ = 14; omega), by simp [evaluate, h]⟩

theorem pass_channels (s : State) (a : Alu) (c : Chan) :
    (settlingPass s a).channels.get c = match a.channels.get c with
      | .overdepth => .overdepth
      | .normal _ => evaluate (channelAt s c).source a.aligned := by
  refine (Table.get_make _ c).trans ?_
  cases a.channels.get c <;> rfl

/-- A pass keeps every latch (R106). -/
theorem pass_keeps_latch (s : State) (a : Alu) (c : Chan) (h : a.channels.get c = .overdepth) :
    (settlingPass s a).channels.get c = .overdepth := by
  rw [pass_channels, h]

/-- The aligned depth after a pass is at least the depth of each Normal channel that sends to the bus (R93, R95). -/
theorem pass_aligned_ge (s : State) (a : Alu) (b : Bus) (c : Chan) (d : Depth)
    (hc : (settlingPass s a).channels.get c = .normal d) (hs : sendsTo (channelAt s c) b = true) :
    d ≤ (settlingPass s a).aligned.get b := by
  obtain ⟨e, he, hle⟩ := foldNeed_ge (needOfChannel s (settlingPass s a).channels b) (List.finRange 48) none d
    (.inr ⟨c, List.mem_finRange c, by simp [needOfChannel, hc, hs]⟩)
  have ho : ownNeedOf s (settlingPass s a).channels b = some e := he
  obtain ⟨e', he', hle'⟩ := le_maxNeed_left e (peerNeedOf s b)
  have : (settlingPass s a).aligned.get b = e' := by
    show (Table.make _).get b = _
    rw [Table.get_make, Table.get_make]
    show (maxNeed (ownNeedOf s (settlingPass s a).channels b) (peerNeedOf s b)).getD 0 = e'
    rw [ho, he']; rfl
  rw [this]; exact hle.trans hle'

/-- Where two passes agree on every Normal channel that sends to the bus, they agree on the bus's aligned depth. -/
theorem pass_aligned_congr (s : State) (a a' : Alu) (b : Bus)
    (h : ∀ c, needOfChannel s (settlingPass s a).channels b c = needOfChannel s (settlingPass s a').channels b c) :
    (settlingPass s a).aligned.get b = (settlingPass s a').aligned.get b := by
  show (Table.make _).get b = (Table.make _).get b
  rw [Table.get_make, Table.get_make, Table.get_make, Table.get_make]
  show alignedOf s (ownNeedOf s (settlingPass s a).channels b) b = alignedOf s (ownNeedOf s (settlingPass s a').channels b) b
  unfold ownNeedOf
  rw [foldNeed_congr _ _ _ _ h]

/-- A pass from two starts with the same latches and the same aligned depths comes to the same. -/
theorem pass_congr (s : State) (a a' : Alu) (hl : ∀ c, a.channels.get c = .overdepth ↔ a'.channels.get c = .overdepth)
    (ha : a.aligned = a'.aligned) : settlingPass s a = settlingPass s a' := by
  have : passAlign s a = passAlign s a' := by
    apply Table.ext_get
    intro c
    have := hl c
    simp only [passAlign, Table.get_make]
    cases h1 : a.channels.get c <;> cases h2 : a'.channels.get c <;> simp_all
  simp only [settlingPass, this]

/-! ### Every settling ends (R97) -/

/-- The channels in Overdepth. -/
def latches (a : Alu) : Finset Chan :=
  Finset.univ.filter fun c => a.channels.get c = .overdepth

theorem mem_latches (a : Alu) (c : Chan) : c ∈ latches a ↔ a.channels.get c = .overdepth := by
  simp [latches]

theorem latches_pass (s : State) (a : Alu) : latches a ⊆ latches (settlingPass s a) := by
  intro c h
  rw [mem_latches] at *
  exact pass_keeps_latch s a c h

theorem latches_iterate (s : State) (a : Alu) (n : Nat) : latches a ⊆ latches ((settlingPass s)^[n] a) := by
  induction n with
  | zero => exact Finset.Subset.refl _
  | succ n ih => rw [Function.iterate_succ_apply']; exact ih.trans (latches_pass s _)

/-- The depth a pass gives a channel that it leaves Normal. -/
theorem pass_normal (s : State) (a : Alu) (c : Chan) (d : Depth) (h : (settlingPass s a).channels.get c = .normal d) :
    d = 0 ∧ (∀ b, (channelAt s c).source ≠ .busReturn b) ∨
      ∃ b, (channelAt s c).source = .busReturn b ∧ d.val = (a.aligned.get b).val + 1 := by
  rw [pass_channels] at h
  cases ha : a.channels.get c with
  | overdepth => rw [ha] at h; cases h
  | normal x =>
    rw [ha] at h
    dsimp only at h
    cases hs : (channelAt s c).source with
    | input n => rw [hs] at h; cases h; exact .inl ⟨rfl, fun b e => by cases e⟩
    | none => rw [hs] at h; cases h; exact .inl ⟨rfl, fun b e => by cases e⟩
    | busReturn b =>
      rw [hs] at h
      rcases evaluate_eq (.busReturn b) a.aligned with e | ⟨b', e, ⟨_, e'⟩ | ⟨d', e', hd⟩⟩
      · simp only [evaluate] at h
        split at h
        · cases h; exact .inr ⟨b, rfl, rfl⟩
        · cases h
      · rw [e'] at h; cases h
      · cases e; rw [e'] at h; cases h; exact .inr ⟨b, rfl, hd⟩

/-- A change of an aligned depth that a pass still makes comes, through a return that sends to the bus, from a change the
pass before made at a depth one lower, unless a channel latched. -/
theorem aligned_change (s : State) (a : Alu)
    (h1 : latches (settlingPass s a) = latches a)
    (h2 : latches (settlingPass s (settlingPass s a)) = latches (settlingPass s a)) (b : Bus)
    (hb : (settlingPass s (settlingPass s a)).aligned.get b ≠ (settlingPass s a).aligned.get b) :
    ∃ b', (settlingPass s a).aligned.get b' ≠ a.aligned.get b' ∧
      ((settlingPass s a).aligned.get b').val + 1 ≤ ((settlingPass s (settlingPass s a)).aligned.get b).val := by
  have : ∃ c, needOfChannel s (settlingPass s (settlingPass s a)).channels b c ≠
      needOfChannel s (settlingPass s a).channels b c := by
    by_contra hn
    push Not at hn
    exact hb (pass_aligned_congr s _ _ b hn)
  obtain ⟨c, hc⟩ := this
  have m1 : c ∈ latches (settlingPass s a) ↔ c ∈ latches a := by rw [h1]
  have m2 : c ∈ latches (settlingPass s (settlingPass s a)) ↔ c ∈ latches (settlingPass s a) := by rw [h2]
  rw [mem_latches, mem_latches] at m1 m2
  cases hz : (settlingPass s (settlingPass s a)).channels.get c with
  | overdepth => exact absurd (by simp [needOfChannel, hz, m2.mp hz]) hc
  | normal d =>
    cases hy : (settlingPass s a).channels.get c with
    | overdepth => rw [m2.mpr hy] at hz; cases hz
    | normal e =>
      have hs : sendsTo (channelAt s c) b = true := by
        by_contra hn
        exact hc (by simp [needOfChannel, hz, hy, hn])
      have hde : d ≠ e := fun k => hc (by simp [needOfChannel, hz, hy, k])
      have le := pass_aligned_ge s _ b c d hz hs
      rcases pass_normal s _ c d hz with ⟨hd, hn⟩ | ⟨b1, hs1, hd⟩
      · rcases pass_normal s _ c e hy with ⟨he, _⟩ | ⟨b2, hs2, _⟩
        · exact absurd (hd.trans he.symm) hde
        · exact absurd hs2 (hn b2)
      · rcases pass_normal s _ c e hy with ⟨_, hn⟩ | ⟨b2, hs2, he⟩
        · exact absurd hs1 (hn b1)
        · rw [hs1] at hs2
          cases hs2
          refine ⟨b1, fun k => hde (Fin.ext ?_), ?_⟩
          · rw [hd, he, k]
          · rw [← hd]; exact le

/-- While no channel latches, a bus whose aligned depth still changes at pass m + 1 comes to a depth of at least m. -/
theorem aligned_change_ge (s : State) (a : Alu) (m : Nat)
    (h : latches ((settlingPass s)^[m + 1] a) = latches a) (b : Bus)
    (hb : ((settlingPass s)^[m + 1] a).aligned.get b ≠ ((settlingPass s)^[m] a).aligned.get b) :
    m ≤ (((settlingPass s)^[m + 1] a).aligned.get b).val := by
  induction m generalizing b with
  | zero => omega
  | succ m ih =>
    have sub1 := latches_iterate s a m
    have sub2 := latches_pass s ((settlingPass s)^[m] a)
    have sub3 := latches_pass s (settlingPass s ((settlingPass s)^[m] a))
    simp only [Function.iterate_succ_apply'] at h hb ih ⊢
    rw [h] at sub3
    have h1 : latches (settlingPass s ((settlingPass s)^[m] a)) = latches a := subset_antisymm sub3 (sub1.trans sub2)
    have h0 : latches ((settlingPass s)^[m] a) = latches a := subset_antisymm (sub2.trans sub3) sub1
    obtain ⟨b', hne, hle⟩ := aligned_change s _ (h1.trans h0.symm) (h.trans h1.symm) b hb
    have := ih h1 b' hne
    omega

/-- Of seventeen passes in a row, one latches a channel or the last changes nothing. -/
theorem passes_end (s : State) (a : Alu) (h : latches ((settlingPass s)^[17] a) = latches a) :
    (settlingPass s)^[17] a = (settlingPass s)^[16] a := by
  have up16 := latches_iterate s a 16
  have up15 := latches_iterate s a 15
  have s15 := latches_pass s ((settlingPass s)^[15] a)
  have s16 := latches_pass s ((settlingPass s)^[16] a)
  rw [← Function.iterate_succ_apply' (settlingPass s) 15] at s15
  rw [← Function.iterate_succ_apply' (settlingPass s) 16] at s16
  rw [h] at s16
  have e16 : latches ((settlingPass s)^[16] a) = latches a := subset_antisymm s16 up16
  have e15 : latches ((settlingPass s)^[15] a) = latches a := subset_antisymm (s15.trans s16) up15
  have same : ((settlingPass s)^[16] a).aligned = ((settlingPass s)^[15] a).aligned := by
    apply Table.ext_get
    intro b
    by_contra hb
    have := aligned_change_ge s a 15 e16 b hb
    have := (((settlingPass s)^[15 + 1] a).aligned.get b).isLt
    omega
  rw [Function.iterate_succ_apply' (settlingPass s) 16, Function.iterate_succ_apply' (settlingPass s) 15 a]
  rw [Function.iterate_succ_apply' (settlingPass s) 15 a] at same e16
  apply pass_congr s _ _ _ same
  intro c
  rw [← mem_latches, ← mem_latches, e16, e15]

/-- A settling given enough passes ends where one more pass changes nothing. -/
theorem settleLoop_prefix (s : State) (n m : Nat) (a : Alu) (l : Bool) :
    settlingPass s (settleLoop s (n + m) a l).1 = (settleLoop s (n + m) a l).1 ∨
      ∃ l', settleLoop s (n + m) a l = settleLoop s n ((settlingPass s)^[m] a) l' ∧
        ∀ k < m, (settlingPass s)^[k + 1] a ≠ (settlingPass s)^[k] a := by
  induction m generalizing a l with
  | zero => exact .inr ⟨l, rfl, fun k hk => by omega⟩
  | succ m ih =>
    have one : settleLoop s (n + (m + 1)) a l = if settlingPass s a = a then (a, l)
        else settleLoop s (n + m) (settlingPass s a) (l || latchedBetween a (settlingPass s a)) := rfl
    rw [one]
    split
    · next h => exact .inl h
    · next h =>
      rcases ih (settlingPass s a) (l || latchedBetween a (settlingPass s a)) with k | ⟨l', k, hk⟩
      · exact .inl k
      · refine .inr ⟨l', k, fun j hj => ?_⟩
        cases j with
        | zero => exact h
        | succ j => exact hk j (by omega)

theorem settleLoop_ends (s : State) (room n : Nat) (a : Alu) (l : Bool) (hr : 48 ≤ (latches a).card + room)
    (hn : 17 * (room + 1) ≤ n) : settlingPass s (settleLoop s n a l).1 = (settleLoop s n a l).1 := by
  induction room generalizing n a l with
  | zero =>
    obtain ⟨k, rfl⟩ : ∃ k, n = k + 17 := ⟨n - 17, by omega⟩
    rcases settleLoop_prefix s k 17 a l with h | ⟨l', _, hne⟩
    · exact h
    · have full : latches a = Finset.univ := by
        apply Finset.eq_univ_of_card
        have := Finset.card_le_univ (latches a)
        simp only [Fintype.card_fin] at *
        omega
      have := latches_iterate s a 17
      rw [full] at this
      exact absurd (passes_end s a (by rw [full]; exact Finset.univ_subset_iff.mp this)) (hne 16 (by omega))
  | succ room ih =>
    obtain ⟨k, rfl⟩ : ∃ k, n = k + 17 := ⟨n - 17, by omega⟩
    rcases settleLoop_prefix s k 17 a l with h | ⟨l', e, hne⟩
    · exact h
    · rw [e]
      apply ih _ _ _ _ (by omega)
      have sub := latches_iterate s a 17
      have : latches a ≠ latches ((settlingPass s)^[17] a) := fun q => hne 16 (by omega) (passes_end s a q.symm)
      have := Finset.card_lt_card (Finset.ssubset_iff_subset_ne.mpr ⟨sub, this⟩)
      omega

/-- Every settling ends: one more pass changes nothing (R97). -/
theorem settled_pass (s : State) : settlingPass s (settled s).1 = (settled s).1 :=
  settleLoop_ends s 48 _ _ _ (by omega) (by simp)

/-! ### What a settling latches (R105, R106) -/

/-- A settling keeps every latch, and marks the latching of any other channel. -/
theorem settleLoop_latches (s : State) (n : Nat) (a : Alu) (l : Bool) (c : Chan) :
    (a.channels.get c = .overdepth → (settleLoop s n a l).1.channels.get c = .overdepth) ∧
    (a.channels.get c ≠ .overdepth → (settleLoop s n a l).1.channels.get c = .overdepth →
      (settleLoop s n a l).2 = true) ∧
    (l = true → (settleLoop s n a l).2 = true) := by
  induction n generalizing a l with
  | zero => exact ⟨id, fun h k => absurd k h, id⟩
  | succ n ih =>
    unfold settleLoop
    dsimp only
    split
    · exact ⟨id, fun h k => absurd k h, id⟩
    · obtain ⟨i1, i2, i3⟩ := ih (settlingPass s a) (l || latchedBetween a (settlingPass s a))
      refine ⟨fun h => i1 (pass_keeps_latch s a c h), fun h k => ?_, fun h => i3 (by simp [h])⟩
      by_cases hp : (settlingPass s a).channels.get c = .overdepth
      · apply i3
        have : latchedBetween a (settlingPass s a) = true := by
          simp only [latchedBetween, List.any_eq_true]
          exact ⟨c, List.mem_finRange c, by simp [hp, h]⟩
        simp [this]
      · exact i2 hp k

/-- A latched channel stays latched through a settling (R106). -/
theorem settled_keeps_latch (s : State) (c : Chan) (h : alignAt s c = .overdepth) :
    (settled s).1.channels.get c = .overdepth :=
  (settleLoop_latches s _ _ _ c).1 h

/-- A settling that latches a channel is marked for the Overdepth occurrence (R98, R105). -/
theorem settled_marks_latch (s : State) (c : Chan) (h : alignAt s c ≠ .overdepth)
    (k : (settled s).1.channels.get c = .overdepth) : (settled s).2 = true :=
  (settleLoop_latches s _ _ _ c).2.1 h k

/-- Where a pass changes nothing a settling does nothing. -/
theorem settled_eq_of_pass (s : State) (h : settlingPass s s.alu = s.alu) : settled s = (s.alu, false) := by
  show settleLoop s (832 + 1) s.alu false = _
  unfold settleLoop
  simp only [h, if_true]

/-! ### Delays (R101 to R103) -/

theorem depthDiff_add (x y : Depth) (h : y ≤ x) : (depthDiff x y).val + y.val = x.val := by
  have : y.val ≤ x.val := h
  simp only [depthDiff]
  omega

/-- An output delay target and its bus's aligned depth make 14 (R103). -/
theorem slotTarget_add (s : State) (b : Bus) : (slotTarget s b).val + (s.alu.aligned.get b).val = 14 := by
  have := (s.alu.aligned.get b).isLt
  exact depthDiff_add 14 _ (by show (s.alu.aligned.get b).val ≤ 14; omega)

theorem effectiveDelay_postDelay (p : ChannelPath) (k j : SendIx) (d : Depth) :
    effectiveDelay (postDelay k d p) j = if j = k then d else effectiveDelay p j := by
  simp only [effectiveDelay, postDelay, Table.get_put]
  split <;> rfl

/-- The delay items of a settling bring each send's effective delay to its target (R102). -/
theorem effectiveDelay_postChannelDelays (s : State) (c : Chan) (k : SendIx) :
    effectiveDelay (postChannelDelays s c) k = delayTarget s c k := by
  have key : ∀ (l : List SendIx) (p : ChannelPath), (∀ j, j ∉ l → effectiveDelay p j = delayTarget s c j) →
      (∀ j, j ∈ l → effectiveDelay p j = delayTarget s c j ∨ effectiveDelay p j = effectiveDelay (pathAt s c) j) →
      effectiveDelay (l.foldl (fun p k => if delayTarget s c k = effectiveDelay (pathAt s c) k then p
        else postDelay k (delayTarget s c k) p) p) k = delayTarget s c k := by
    intro l
    induction l with
    | nil => intro p h _; exact h k (by simp)
    | cons i l ih =>
      intro p h h'
      rw [List.foldl_cons]
      by_cases e : delayTarget s c i = effectiveDelay (pathAt s c) i
      · rw [if_pos e]
        have hi : effectiveDelay p i = delayTarget s c i := (h' i List.mem_cons_self).elim id fun q => q.trans e.symm
        refine ih p (fun j hj => ?_) fun j hj => h' j (List.mem_cons_of_mem _ hj)
        by_cases ej : j = i
        · rw [ej]; exact hi
        · exact h j (by simp [ej, hj])
      · rw [if_neg e]
        refine ih _ (fun j hj => ?_) fun j hj => ?_
        · rw [effectiveDelay_postDelay]
          split
          · next q => rw [q]
          · next q => exact h j (by simp [q, hj])
        · rw [effectiveDelay_postDelay]
          split
          · next q => exact .inl (by rw [q])
          · exact h' j (List.mem_cons_of_mem _ hj)
  exact key _ _ (fun j hj => absurd (List.mem_finRange j) hj) fun j _ => .inr rfl

/-- The output delay item of a settling brings a slot's effective delay to its target (R103). -/
theorem effectiveSlotDelay_postSlot (s : State) (p : SlotPath) (b : Bus) (h : p.bus = some b) :
    effectiveSlotDelay (postSlot s p) = slotTarget s b := by
  simp only [postSlot, h]
  split
  · next e => exact e.symm
  · simp [effectiveSlotDelay, postSlotDelay]

end Sys2Proof.Machine
end

