-- ==== Sys2Proof/Laws/Cases.lean ====
section
/-! SUPPORT. What the operations of an arrival can come to, said once: to show a property of the outcome, show it of each
operation it can be. -/

namespace Sys2Proof.Machine

/-- A completed message is taken as its kind, faulted, or dropped (R142, R143). -/
theorem completeMessage_cases {P : State → Prop} (lane : LaneIx) (straps : BitVec 4) (h : Word) (ws : List Word) (s : State)
    (drop : P s) (fault : P (messageFault s))
    (stripSet : ∀ strip param w p, P (takeStripSet lane strip param w p s))
    (stripQuery : ∀ strip param, P (takeStripQuery lane strip param s))
    (groupLevel : ∀ gf m p, P (takeGroupLevel lane gf m p s))
    (bind : ∀ n, P (takeBind lane n s))
    (watch : ∀ strip, P (takeWatch strip s)) (unwatch : ∀ strip, P (takeUnwatch strip s))
    (rearm : ∀ strip, P (takeRearm strip s))
    (clear : ∀ dest mask, P (takeClearConditions dest mask s)) (rollCall : ∀ dest, P (takeRollCall dest s))
    (reset : ∀ dest, P (takeStationReset dest straps s)) :
    P (completeMessage lane straps h ws s) := by
  unfold completeMessage
  split
  · unfold judgeStripSet; split
    · split
      · exact fault
      · exact stripSet _ _ _ _
    · split
      · exact stripSet _ _ _ _
      · exact fault
    · exact fault
  · unfold judgeOne; split
    · exact stripQuery _ _
    · exact fault
  · unfold judgeGroupLevel; split
    · split
      · exact fault
      · exact groupLevel _ _ _
    · split
      · exact groupLevel _ _ _
      · exact fault
    · exact fault
  · unfold judgeOne; split
    · exact bind _
    · exact fault
  · unfold judgeOne; split
    · exact watch _
    · exact fault
  · unfold judgeOne; split
    · exact unwatch _
    · exact fault
  · unfold judgeOne; split
    · exact rearm _
    · exact fault
  · unfold judgeOne; split
    · exact clear _ _
    · exact fault
  · unfold judgeNone; split
    · exact rollCall _
    · exact fault
  · unfold judgeNone; split
    · exact reset _
    · exact fault
  · exact drop
  · exact fault

/-- A word is skipped, stored in the lane's record, or completes a message (R139). -/
theorem takeWord_cases {P : State → Prop} (lane : LaneIx) (straps : BitVec 4) (w : Word) (s : State)
    (skip : P s) (store : ∀ r, P (setReassembly s lane r))
    (complete : ∀ h ws, P (completeMessage lane straps h ws s))
    (completeIdle : ∀ h ws, P (completeMessage lane straps h ws (setReassembly s lane .idle))) :
    P (takeWord lane straps w s) := by
  unfold takeWord
  split
  · split
    · exact skip
    · split
      · exact complete _ _
      · exact store _
  · split
    · exact store _
    · dsimp only; split
      · exact completeIdle _ _
      · exact store _

/-- A property that words of the lane keep outside Booting is kept by the two slots of an arrival (R136, R150). -/
theorem takeSlots_cases {P : State → Prop} (lane : LaneIx) (straps : BitVec 4) (w0 w1 : Word) (s : State) (hs : P s)
    (hn : s.stc.station ≠ .booting)
    (word : ∀ w t, P t → t.stc.station ≠ .booting → P (takeWord lane straps w t)) : P (takeSlots lane straps w0 w1 s) := by
  unfold takeSlots; dsimp only
  split
  · exact word _ _ hs hn
  · next h => exact word _ _ (word _ _ hs hn) h

/-- A station-addressed message faults, is acted on, or is dropped (R142, R143). -/
theorem onStation_cases {P : State → Prop} (dest : BitVec 5) (allowed : State → Bool) (act : State → State) (s : State)
    (drop : P s) (fault : P (messageFault s)) (acted : allowed s = true → P (act s)) : P (onStation dest allowed act s) := by
  unfold onStation
  split
  · exact fault
  · split
    · next h => exact acted (by simpa using (Bool.and_eq_true_iff.mp h).1)
    · exact drop

/-- A strip-addressed message is acted on for the channel its strip names, or dropped (R143). -/
theorem onStrip_cases {P : State → Prop} (strip : BitVec 16) (act : Chan → State → State) (s : State)
    (drop : P s) (acted : ∀ c, stripChannel s strip = some c → takesChanges s = true → P (act c s)) :
    P (onStrip strip act s) := by
  unfold onStrip
  split
  · next h => split
              · next c hc => exact acted c hc h
              · exact drop
  · exact drop

/-- A condition is raised or not (R177). -/
theorem raiseIf_cases {P : State → Prop} (b : Bool) (c : Condition) (s : State) (no : P s) (yes : P (raise c s)) :
    P (raiseIf b c s) := by
  unfold raiseIf; split
  · exact yes
  · exact no

/-- The arrival of a received lane: a peer's, or the own lane's watched or compared (R2, R11, R14, R18). -/
theorem laneArrives_cases {P : State → Prop} (lane : LaneIx) (rx : Reception) (straps : BitVec 4) (s : State)
    (peer : lane ≠ s.stc.nodeId → P (peerArrival lane straps (validWords lane rx) s))
    (watched : s.lif.ownMode = .watched → P (watchedArrival (validWords lane rx) s))
    (compared : s.lif.ownMode = .own → drivesLane s = true → ∀ d, P (readback (validWords lane rx) (some d) s))
    (nothing : P s) : P (laneArrives lane rx straps s) := by
  unfold laneArrives
  split
  · unfold ownArrival
    split
    · next h => exact watched h
    · next h =>
      split
      · next hd => split
                   · exact compared h hd _
                   · exact nothing
      · exact nothing
  · next h => exact peer h

end Sys2Proof.Machine
end

