-- ==== Sys2Proof/Laws/Changes.lean ====
section
/-! SUPPORT. What the application of a change reads: the settings, the groups, the alignment state, the Lane Table, the node ID
and what the datapath holds for its channels and slots. Where two states agree on these, they agree on them after it. -/

namespace Sys2Proof.Machine

/-- The two states agree on all that the application of a change reads (R40, R50, R76, R80, R83, R97, R102, R103). -/
def SameDesk (s t : State) : Prop :=
  t.sst = s.sst ∧ t.gsu = s.gsu ∧ t.alu = s.alu ∧ t.lif = s.lif ∧ t.stc.nodeId = s.stc.nodeId ∧
    t.mxd.channels = s.mxd.channels ∧ t.mxd.slots = s.mxd.slots

variable {s t : State}

/-- A report touches nothing that a change reads. -/
theorem SameDesk.raiseIf (h : SameDesk s t) (b b' : Bool) (c c' : Condition) :
    SameDesk (Machine.raiseIf b c s) (Machine.raiseIf b' c' t) := by
  simpa [SameDesk] using h

/-- The own scope bits read the Channel Table and the Group Table (R81). -/
theorem ownScopesOf_congr (h1 : t.sst = s.sst) (h2 : t.gsu = s.gsu) : ownScopesOf t = ownScopesOf s := by
  cases s; cases t; cases h1; cases h2; rfl

/-- The link scope state reads the own scope bits, the Lane Table and the node ID (R83). -/
theorem linkScopesOf_congr (h1 : t.gsu = s.gsu) (h2 : t.lif = s.lif) (h3 : t.stc.nodeId = s.stc.nodeId) :
    linkScopesOf t = linkScopesOf s := by
  obtain ⟨⟨_, _, _, _, _, _, _, _, _⟩, _, _, _, _, _, _, _, _, _, _, _⟩ := s
  obtain ⟨⟨_, _, _, _, _, _, _, _, _⟩, _, _, _, _, _, _, _, _, _, _, _⟩ := t
  cases h1; cases h2; cases h3; rfl

theorem SameDesk.setChannel (h : SameDesk s t) (c : Chan) (r : ChannelRecord) :
    SameDesk (Machine.setChannel s c r) (Machine.setChannel t c r) := by
  obtain ⟨h1, h2, h3, h4, h5, h6, h7⟩ := h
  simp [SameDesk, Machine.setChannel, h1, h2, h3, h4, h5, h6, h7]

theorem SameDesk.setPath (h : SameDesk s t) (c : Chan) (p : ChannelPath) :
    SameDesk (Machine.setPath s c p) (Machine.setPath t c p) := by
  obtain ⟨h1, h2, h3, h4, h5, h6, h7⟩ := h
  simp [SameDesk, Machine.setPath, h1, h2, h3, h4, h5, h6, h7]

theorem SameDesk.evaluateChannel (h : SameDesk s t) (c : Chan) :
    SameDesk (Machine.evaluateChannel c s) (Machine.evaluateChannel c t) := by
  obtain ⟨h1, h2, h3, h4, h5, h6, h7⟩ := h
  simp [SameDesk, Machine.evaluateChannel, setAlign, channelAt, h1, h2, h3, h4, h5, h6, h7]

theorem SameDesk.evalOwnScopes (h : SameDesk s t) : SameDesk (Machine.evalOwnScopes s) (Machine.evalOwnScopes t) := by
  obtain ⟨h1, h2, h3, h4, h5, h6, h7⟩ := h
  refine ⟨h1, ?_, h3, h4, h5, h6, h7⟩
  simp only [Machine.evalOwnScopes, State.setGsu_gsu, ownScopesOf_congr h1 h2, h2]

theorem SameDesk.evalGating (h : SameDesk s t) : SameDesk (Machine.evalGating s) (Machine.evalGating t) := by
  obtain ⟨h1, h2, h3, h4, h5, h6, h7⟩ := h
  refine ⟨h1, ?_, h3, h4, h5, h6, h7⟩
  simp only [Machine.evalGating, State.setGsu_gsu, h2]
  congr 2
  funext c
  simp [soloGated, soloed, channelAt, h1, h2]

theorem SameDesk.evalLinkScopes (h : SameDesk s t) : SameDesk (Machine.evalLinkScopes s) (Machine.evalLinkScopes t) := by
  obtain ⟨h1, h2, h3, h4, h5, h6, h7⟩ := h
  apply SameDesk.evalGating
  refine ⟨h1, ?_, h3, h4, h5, h6, h7⟩
  simp only [State.setGsu_gsu, linkScopesOf_congr h2 h4 h5, h2]

theorem SameDesk.evalSolo (h : SameDesk s t) : SameDesk (Machine.evalSolo s) (Machine.evalSolo t) :=
  h.evalOwnScopes.evalLinkScopes

theorem settleLoop_congr (h : ∀ a, settlingPass t a = settlingPass s a) (n : Nat) (a : Alu) (l : Bool) :
    settleLoop t n a l = settleLoop s n a l := by
  induction n generalizing a l with
  | zero => rfl
  | succ n ih => simp only [settleLoop, h, ih]

/-- A settling reads the Channel Table, the Lane Table and the node ID beside the alignment state (R97). -/
theorem settled_congr (h1 : t.sst = s.sst) (h2 : t.lif = s.lif) (h3 : t.stc.nodeId = s.stc.nodeId) (h4 : t.alu = s.alu) :
    settled t = settled s := by
  simp only [settled, h4]
  exact settleLoop_congr (settlingPass_congr h1 h2 h3) _ _ _

theorem SameDesk.settle (h : SameDesk s t) : SameDesk (Machine.settle s) (Machine.settle t) := by
  obtain ⟨h1, h2, h3, h4, h5, h6, h7⟩ := h
  apply SameDesk.raiseIf
  have hs := settled_congr h1 h4 h5 h3
  refine ⟨h1, h2, by simp [hs], h4, h5, ?_, ?_⟩
  · simp only [postDelays, State.setMxd_mxd, hs]
    congr 1
    funext c
    have ha : pathAt (t.setAlu (settled s).1) c = pathAt (s.setAlu (settled s).1) c := by simp [pathAt, h6]
    have hd : ∀ k, delayTarget (t.setAlu (settled s).1) c k = delayTarget (s.setAlu (settled s).1) c k := by
      intro k; simp only [delayTarget, channelAt, alignAt, ha, State.setAlu_sst, State.setAlu_alu, h1]
    simp only [postChannelDelays, ha, hd]
  · simp only [postDelays, State.setMxd_mxd, State.setAlu_mxd, hs, h7]
    rfl

theorem SameDesk.applyGroupLevel (h : SameDesk s t) (gf m : Word) :
    SameDesk (Machine.applyGroupLevel gf m s) (Machine.applyGroupLevel gf m t) := by
  unfold Machine.applyGroupLevel
  split
  · exact h
  · apply SameDesk.evalSolo
    obtain ⟨h1, h2, h3, h4, h5, h6, h7⟩ := h
    simp [SameDesk, h1, h2, h3, h4, h5, h6, h7]

/-- A write keeps the agreement (R40 to R51). -/
theorem SameDesk.applyWrite (h : SameDesk s t) (c : Chan) (id : BitVec 16) (w : Word) :
    SameDesk (Machine.applyWrite c id w s) (Machine.applyWrite c id w t) := by
  have hc : channelAt t c = channelAt s c := channelAt_congr h.1 c
  unfold Machine.applyWrite
  split
  · have e := (h.setChannel c { channelAt s c with source := sourceOf w }).evaluateChannel c
    have ep : pathAt (Machine.evaluateChannel c (Machine.setChannel t c { channelAt s c with source := sourceOf w })) c =
        pathAt (Machine.evaluateChannel c (Machine.setChannel s c { channelAt s c with source := sourceOf w })) c := by
      simp only [pathAt, e.2.2.2.2.2.1]
    unfold writeSource
    simp only [hc, ep]
    exact ((e.setPath c _).raiseIf _ _ _ _).settle
  · unfold writeTrim; rw [hc]; exact h.setChannel c _
  · unfold writeFader; rw [hc]; exact h.setChannel c _
  · unfold writeMute; rw [hc]; exact h.setChannel c _
  · unfold writeSolo; rw [hc]; exact (h.setChannel c _).evalSolo
  · unfold writeSoloSafe; rw [hc]; exact (h.setChannel c _).evalGating
  · unfold writeScope; rw [hc]; exact (h.setChannel c _).evalSolo
  · unfold writeGroups; rw [hc]; exact (h.setChannel c _).evalSolo
  · rename_i k _
    have e : SameDesk (setSend s c k { (channelAt s c).sends.get k with bus := busOf w.toNat })
        (setSend t c k { (channelAt s c).sends.get k with bus := busOf w.toNat }) := by
      unfold setSend; rw [hc]; exact h.setChannel c _
    have ep : pathAt (setSend t c k { (channelAt s c).sends.get k with bus := busOf w.toNat }) c =
        pathAt (setSend s c k { (channelAt s c).sends.get k with bus := busOf w.toNat }) c := by
      simp only [pathAt, e.2.2.2.2.2.1]
    unfold writeSendBus
    simp only [hc, ep]
    exact (e.setPath c _).settle
  · unfold writeSendLevel setSend; rw [hc]; exact h.setChannel c _
  · unfold writeSendSwitches setSend; rw [hc]; exact h.setChannel c _
  all_goals exact h

/-- A change keeps the agreement (R166). -/
theorem SameDesk.applyChange (h : SameDesk s t) (x : LaneChange) :
    SameDesk (Machine.applyChange s x) (Machine.applyChange t x) := by
  unfold Machine.applyChange
  split
  · exact h.applyWrite _ _ _
  · exact h.applyGroupLevel _ _

/-- The applications of a strobe keep the agreement (R166). -/
theorem SameDesk.applyChanges (h : SameDesk s t) (cs : List LaneChange) :
    SameDesk (cs.foldl Machine.applyChange s) (cs.foldl Machine.applyChange t) := by
  induction cs generalizing s t with
  | nil => exact h
  | cons x cs ih => exact ih (h.applyChange x)

end Sys2Proof.Machine
end

