-- ==== Sys2Proof/Laws/Conditions.lean ====
section
/-! SUPPORT. What an occurrence of a condition does, said once (R177, R178). -/

namespace Sys2Proof.Machine

/-- Class 1 after an occurrence (R178): the Notice joins it where the flag was clear, the mask lets it and there is room. -/
def noticesAfter (c : Condition) (s : State) : List Notice :=
  if (!conditionBit s.stc.conditions c && !conditionBit s.stc.boot.noticeMask c) &&
      decide (s.mse.notices.length + inProgressCount s.mse .notice < 8) then
    s.mse.notices ++ [{ condition := c, position := s.rfr.position }]
  else s.mse.notices

/-- An occurrence writes the condition flags and class 1, and nothing else. -/
theorem raise_eq (c : Condition) (s : State) : raise c s =
    (s.setStc { s.stc with conditions := withCondition s.stc.conditions c }).setMse
      { s.mse with notices := noticesAfter c s } := by
  unfold raise noticesAfter queueNotice
  dsimp only
  by_cases h1 : (!conditionBit s.stc.conditions c && !conditionBit s.stc.boot.noticeMask c) = true
  · by_cases h2 : s.mse.notices.length + inProgressCount s.mse .notice < 8
    · simp [h1, h2]
    · simp [h1, h2]; rfl
  · simp [h1]; rfl

/-- A flag is set by an occurrence of its condition and by no other. -/
theorem withCondition_bit (bits : Byte) (c : Condition) (n : Fin 8) :
    (withCondition bits c).getLsbD n.val = (bits.getLsbD n.val || decide (n.val = conditionNumber c)) := by
  revert bits
  cases c <;> revert n <;> simp only [withCondition, conditionNumber] <;> decide

/-- No flag is cleared by an occurrence. -/
theorem raise_keeps_flags (c : Condition) (s : State) :
    s.stc.conditions &&& (raise c s).stc.conditions = s.stc.conditions := by
  rw [raise_eq]
  simp only [State.setMse_stc, State.setStc_stc, withCondition]
  ext i hi
  simp
  grind

theorem raiseIf_keeps_flags (b : Bool) (c : Condition) (s : State) :
    s.stc.conditions &&& (raiseIf b c s).stc.conditions = s.stc.conditions := by
  unfold raiseIf
  split
  · exact raise_keeps_flags c s
  · exact BitVec.and_self

/-- What a report writes of the Message Engine is class 1. -/
theorem raiseIf_mse (b : Bool) (c : Condition) (s : State) :
    (raiseIf b c s).mse = { s.mse with notices := (raiseIf b c s).mse.notices } := by
  unfold raiseIf
  split
  · rw [raise_eq]; rfl
  · rfl

end Sys2Proof.Machine
end

