-- ==== Sys2Proof/Laws/Invariants.lean ====
section
/-! SUPPORT. How a property is shown to be kept by every step: the operations that have to keep it, and what follows. -/

namespace Sys2Proof.Machine

/-- The operations a completed message can come to keep the property. -/
structure KeptByMessages (P : State → Prop) : Prop where
  fault : ∀ s, P s → P (messageFault s)
  change : ∀ lane c stamp s, takesChanges s = true → P s → P (takeChange lane c stamp s)
  bind : ∀ lane n s, 1 ≤ n → n ≤ 4 → takesChanges s = true → P s → P (openSet lane n s)
  query : ∀ a s, P s → P (queueStripAnswer a s)
  watch : ∀ strip c s, stripChannel s strip = some c → takesChanges s = true → P s → P (watchStrip strip c s)
  unwatch : ∀ strip s, P s → P (unwatchStrip strip s)
  rearm : ∀ c s, P s → P (rearmChannel c s)
  clear : ∀ mask s, P s → P (clearFlags mask s)
  announce : ∀ s, P s → P (queueAnnounce s)
  reset : ∀ straps s, takesFrames s = true → P s → P (stationResetTaken straps s)
  reassembly : ∀ lane r s, P s → P (setReassembly s lane r)

namespace KeptByMessages

variable {P : State → Prop} (k : KeptByMessages P)
include k

theorem stripSet (lane : LaneIx) (strip param : BitVec 16) (w : Word) (p : Option Position) (s : State) (h : P s) :
    P (takeStripSet lane strip param w p s) := by
  unfold takeStripSet; split
  · next ht => exact k.change _ _ _ _ ht h
  · exact h

theorem groupLevel (lane : LaneIx) (gf m : Word) (p : Option Position) (s : State) (h : P s) :
    P (takeGroupLevel lane gf m p s) := by
  unfold takeGroupLevel; split
  · next ht => exact k.change _ _ _ _ ht h
  · exact h

theorem takeBind (lane : LaneIx) (n : Word) (s : State) (h : P s) : P (takeBind lane n s) := by
  unfold Machine.takeBind; split
  · next hn => split
               · next ht => exact k.bind _ _ _ hn.1 hn.2 ht h
               · exact h
  · exact k.fault _ h

theorem takeStripQuery (strip : BitVec 16) (lane : LaneIx) (param : BitVec 16) (s : State) (h : P s) :
    P (takeStripQuery lane strip param s) :=
  onStrip_cases _ _ _ h fun _ _ _ => k.query _ _ h

theorem takeWatch (strip : BitVec 16) (s : State) (h : P s) : P (takeWatch strip s) :=
  onStrip_cases _ _ _ h fun _ hc ht => k.watch _ _ _ hc ht h

theorem takeUnwatch (strip : BitVec 16) (s : State) (h : P s) : P (takeUnwatch strip s) :=
  onStrip_cases _ _ _ h fun _ _ _ => k.unwatch _ _ h

theorem takeRearm (strip : BitVec 16) (s : State) (h : P s) : P (takeRearm strip s) :=
  onStrip_cases _ _ _ h fun _ _ _ => k.rearm _ _ h

theorem takeClearConditions (dest : BitVec 5) (mask : Byte) (s : State) (h : P s) : P (takeClearConditions dest mask s) :=
  onStation_cases _ _ _ _ h (k.fault _ h) fun _ => k.clear _ _ h

theorem takeRollCall (dest : BitVec 5) (s : State) (h : P s) : P (takeRollCall dest s) :=
  onStation_cases _ _ _ _ h (k.fault _ h) fun _ => k.announce _ h

theorem takeStationReset (dest : BitVec 5) (straps : BitVec 4) (s : State) (h : P s) :
    P (takeStationReset dest straps s) :=
  onStation_cases _ _ _ _ h (k.fault _ h) fun ht => k.reset _ _ ht h

theorem completeMessage (lane : LaneIx) (straps : BitVec 4) (w : Word) (ws : List Word) (s : State) (h : P s) :
    P (completeMessage lane straps w ws s) :=
  completeMessage_cases _ _ _ _ _ h (k.fault _ h) (fun _ _ _ _ => k.stripSet _ _ _ _ _ _ h)
    (fun _ _ => k.takeStripQuery _ _ _ _ h) (fun _ _ _ => k.groupLevel _ _ _ _ _ h) (fun _ => k.takeBind _ _ _ h)
    (fun _ => k.takeWatch _ _ h) (fun _ => k.takeUnwatch _ _ h) (fun _ => k.takeRearm _ _ h)
    (fun _ _ => k.takeClearConditions _ _ _ h) (fun _ => k.takeRollCall _ _ h) fun _ => k.takeStationReset _ _ _ h

theorem takeWord (lane : LaneIx) (straps : BitVec 4) (w : Word) (s : State) (h : P s) : P (takeWord lane straps w s) :=
  takeWord_cases _ _ _ _ h (fun _ => k.reassembly _ _ _ h) (fun _ _ => k.completeMessage _ _ _ _ _ h)
    fun _ _ => k.completeMessage _ _ _ _ _ (k.reassembly _ _ _ h)

theorem takeSlots (lane : LaneIx) (straps : BitVec 4) (w0 w1 : Word) (s : State) (h : P s) :
    P (takeSlots lane straps w0 w1 s) := by
  unfold Machine.takeSlots; dsimp only; split
  · exact k.takeWord _ _ _ _ h
  · exact k.takeWord _ _ _ _ (k.takeWord _ _ _ _ h)

end KeptByMessages

/-- The operations of a step keep the property. -/
structure KeptBySteps (P : State → Prop) : Prop extends KeptByMessages P where
  queue : ∀ l s, P s → P (s.setPending l)
  powerOn : ∀ straps s, P s → P (powerOnReset straps s)
  pinAsserted : ∀ s, P s → P (pinAsserted s)
  pinReset : ∀ straps s, P s → P (pinResetTaken straps s)
  boot : ∀ o s, s.stc.station = .booting → P s → P (bootReadEnds o s)
  strobe : ∀ p inputs s, P s → P (strobeTaken p inputs s)
  loss : ∀ s, P s → P (lossTaken s)
  peer : ∀ lane straps v s, lane ≠ s.stc.nodeId → P s → P (peerArrival lane straps v s)
  watched : ∀ v s, s.lif.ownMode = .watched → P s → P (watchedArrival v s)
  clean : ∀ s, P s → P (cleanReadback s)
  mismatch : ∀ s, drivesLane s = true → P s → P (mismatchReadback s)
  decide : ∀ s, s.stc.station = .listening → P s → P (decideListening s)
  lock : ∀ port b s, P s → P (setLock port b s)
  inputFault : ∀ s, P s → P (raise .inputFault s)
  window : ∀ s, P s → P (endWindow s)
  ramp : ∀ r s, P s → P (applyRamp r s)
  close : ∀ lane s, P s → P (closeSet lane s)

/-- A property that the operations keep is kept by every step. -/
theorem KeptBySteps.step {P : State → Prop} (k : KeptBySteps P) (s t : State) (h : P s) (e : step s = .next t) : P t := by
  have out : ∀ {u : State}, Host.Outcome.next (φ := Fault) (ρ := Refusal) u = .next t → P u → P t := by
    intro u e; cases e; exact id
  have arr : ∀ lane rx straps s, P s → P (laneArrives lane rx straps s) := by
    intro lane rx straps s h
    refine laneArrives_cases _ _ _ _ (fun hn => k.peer _ _ _ _ hn h) (fun hw => k.watched _ _ hw h) (fun _ hd d => ?_) h
    unfold readback; split
    · exact k.clean _ h
    · exact k.mismatch _ hd h
  have pin : ∀ f s, P s → P (f s) → P (unlessPinned f s) := by
    intro f s h hf; unfold unlessPinned; split
    · exact h
    · exact hf
  unfold Machine.step at e
  split at e
  · exact out e h
  · next c rest hp =>
    replace h := k.queue rest _ h
    generalize s.setPending rest = s at h e
    cases c
    case powerOn => exact out e (k.powerOn _ _ h)
    case resetPinAsserted => exact out e (k.pinAsserted _ h)
    case pinReset => exact out e (k.pinReset _ _ h)
    case stationReset => exact out e (pin _ _ h (k.takeStationReset _ _ _ h))
    case bootReadComplete =>
      refine out e ?_; split
      · next hb => exact k.boot _ _ hb h
      · exact h
    case bootReadNoAnswer =>
      refine out e ?_; split
      · next hb => exact k.boot _ _ hb h
      · exact h
    case strobe =>
      refine out e ?_; split
      · exact h
      · exact k.strobe _ _ _ h
    case loss =>
      refine out e ?_; split
      · exact k.loss _ h
      · exact h
    case laneArrival =>
      refine out e ?_; split
      · exact arr _ _ _ _ h
      · exact h
    case lockGained => exact out e (k.lock _ _ _ h)
    case lockLost => exact out e (k.inputFault _ (k.lock _ _ _ h))
    case stripSet => exact out e (pin _ _ h (k.stripSet _ _ _ _ _ _ h))
    case stripQuery => exact out e (pin _ _ h (k.takeStripQuery _ _ _ _ h))
    case groupLevel => exact out e (pin _ _ h (k.groupLevel _ _ _ _ _ h))
    case bind => exact out e (pin _ _ h (k.takeBind _ _ _ h))
    case watch => exact out e (pin _ _ h (k.takeWatch _ _ h))
    case unwatch => exact out e (pin _ _ h (k.takeUnwatch _ _ h))
    case rearm => exact out e (pin _ _ h (k.takeRearm _ _ h))
    case clearConditions => exact out e (pin _ _ h (k.takeClearConditions _ _ _ h))
    case rollCall => exact out e (pin _ _ h (k.takeRollCall _ _ h))
    case laneLost =>
      refine out e ?_; split
      · exact arr _ _ _ _ h
      · exact h
    case laneConflict =>
      refine out e ?_; split
      · next g => exact k.mismatch _ (by simp at g; exact g.1.2) h
      · exact h
    case joiningComplete =>
      refine out e ?_; split
      · exact k.clean _ h
      · exact h
    case endOfListening =>
      refine out e ?_; split
      · next g => exact k.decide _ (by simp [listeningDone] at g; exact g.2.1) h
      · exact h
    case windowEnd =>
      refine out e ?_; split
      · exact k.window _ h
      · exact h
    case pendingSetApplication =>
      refine out e ?_; split
      · exact k.ramp _ _ h
      · exact h
    case setClose =>
      refine out e ?_; split
      · exact k.close _ _ h
      · exact h

end Sys2Proof.Machine
end

