-- ==== Sys2Proof/Laws/Strobe.lean ====
section
/-! SUPPORT. What a strobe does to the blocks, said once: the state it forms before it opens the frame, the changes it applies,
the lane it drives (R6 to R9, R28, R166). -/

namespace Sys2Proof.Machine

/-! ### The parts of a strobe -/

/-- The state a strobe forms, outside Booting, before it opens the frame. -/
def formedAtStrobe (p : Position) (inputs : Table 48 Sample) (s : State) : State :=
  formFrame (entersContributing s) inputs (changesAtStrobe (classify s.rfr p) (closeFrame (stationAtStrobe (takeStrobe p s))))

theorem strobeTaken_eq (p : Position) (inputs : Table 48 Sample) (s : State) (h : s.stc.station ≠ .booting) :
    strobeTaken p inputs s = openByStation s (formedAtStrobe p inputs s) := by
  unfold strobeTaken formedAtStrobe; dsimp only; rw [if_neg (by simpa using h)]

theorem exec_strobe (p : Position) (inputs : Table 48 Sample) (s : State) (h : s.resetPin = false) :
    exec (.strobe p inputs) s = .next (strobeTaken p inputs s) := by
  show Host.Outcome.next _ = _; rw [if_neg (by simp [h])]

/-- The close of a frame leaves what the datapath holds for the channels and the slots. -/
theorem closeFrame_paths (s : State) :
    (closeFrame s).mxd.channels = s.mxd.channels ∧ (closeFrame s).mxd.slots = s.mxd.slots := by
  unfold closeFrame; split <;> simp

/-- Opening a frame leaves the datapath but for the totals. -/
theorem openByStation_mxd (b s : State) :
    (openByStation b s).mxd.channels = s.mxd.channels ∧ (openByStation b s).mxd.slots = s.mxd.slots ∧
    (openByStation b s).mxd.busHistory = s.mxd.busHistory ∧ (openByStation b s).mxd.locks = s.mxd.locks ∧
    (openByStation b s).mxd.outputs = s.mxd.outputs := by
  unfold openByStation; dsimp only
  split <;> simp [openJoining, openUndriven, openContributing, openTotals, ownWordsEnter]

/-- The Link Interface after a frame is opened (R6 to R9): the lane driven, and the own frame count. -/
theorem openByStation_lif (b s : State) : (openByStation b s).lif = match s.stc.station with
    | .joining => { s.lif with
        receiving := true
        driven := some (composeLane ((composeHeader b 1).getD 0 0) ((composeHeader b 1).getD 1 0) ((composeHeader b 1).getD 2 0)
          (Table.fill 48 0) 0 0)
        ownFrame := s.lif.ownFrame + 1 }
    | .contributing => { s.lif with
        receiving := true
        driven := some (composeLane ((composeHeader b 2).getD 0 0) ((composeHeader b 2).getD 1 0) ((composeHeader b 2).getD 2 0)
          (laneWords s) (fillSlot (meterFrame (ownWordsEnter s))).1 (fillSlot (fillSlot (meterFrame (ownWordsEnter s))).2).1)
        ownFrame := s.lif.ownFrame + 1 }
    | .listening => { s.lif with receiving := true, driven := none }
    | .silent => { s.lif with receiving := true, driven := none }
    | .booting => s.lif
    | .isolated => s.lif := by
  unfold openByStation; dsimp only
  split <;> simp_all [openJoining, openUndriven, openContributing, openFrame, openTotals]

/-- The station, the own frame count and the message in progress of the state a strobe forms (R7, R27, R32, R154). -/
theorem formedAtStrobe_station (p : Position) (inputs : Table 48 Sample) (s : State) :
    (formedAtStrobe p inputs s).lif.ownFrame = s.lif.ownFrame ∧
    (formedAtStrobe p inputs s).stc.station = (match s.stc.station with
      | .isolated => .listening
      | .joining => if s.stc.joiningComplete then .contributing else .joining
      | x => x) ∧
    (formedAtStrobe p inputs s).mse.inProgress = (if s.stc.station = .isolated then none else s.mse.inProgress) := by
  have k1 : (takeStrobe p s).stc.station = s.stc.station := by simp
  have k3 : (takeStrobe p s).stc.joiningComplete = s.stc.joiningComplete := by simp
  refine ⟨?_, ?_, ?_⟩ <;> unfold formedAtStrobe <;> simp only [formFrame_keeps, changesAtStrobe_keeps, closeFrame_keeps]
  · unfold stationAtStrobe
    split <;> (try split) <;>
      simp [enterContributing, startMetering, queueAnnounce, leaveIsolated, clearWaitingMarks, emptyClasses, clearScheduler]
  · unfold stationAtStrobe; rw [k1, k3]
    split <;> (try split) <;> simp_all [enterContributing, startMetering, queueAnnounce, leaveIsolated]
  · unfold stationAtStrobe; rw [k1, k3]
    split <;> (try split) <;>
      simp_all [enterContributing, startMetering, queueAnnounce, leaveIsolated, clearWaitingMarks, emptyClasses, clearScheduler]

/-! ### The changes of a strobe -/

/-- The strobe's position continues the reference line, so that no Locate flushes the queue (R28, R168). -/
theorem flushes_classify (r : Rfr) (p : Position) : flushes (classify r p) =
    !decide (r.known = true ∧ (p = r.position ∨ p.toNat = r.position.toNat + 1)) := by
  unfold classify flushes
  cases r.known <;> simp
  by_cases h1 : p.toNat = r.position.toNat + 1 <;> by_cases h2 : p = r.position <;> simp [h1, h2]

/-- The changes a strobe applies in Listening, Joining, Contributing and Silent, as one list (R166, R168, R170). -/
theorem SameDesk.changesAtStrobe {s r : State} {p : Position} (hd : SameDesk s r) (hc : r.chs = s.chs)
    (hp : r.rfr.position = p) (hst : takesChanges r = takesChanges s)
    (hs : takesChanges s = true ∨ s.stc.station = .silent) :
    let queue := if s.rfr.known = true ∧ (p = s.rfr.position ∨ p.toNat = s.rfr.position.toNat + 1) then s.chs.queue else []
    let changes := if s.stc.station = .silent then []
      else (queue.takeWhile fun e => decide (e.target.toNat ≤ p.toNat)).map (fun e => e.change) ++ s.chs.due
    SameDesk (changes.foldl Machine.applyChange s) (Machine.changesAtStrobe (classify s.rfr p) r) := by
  dsimp only
  unfold Machine.changesAtStrobe; dsimp only
  have tc : takesChanges (if flushes (classify s.rfr p) = true then flushQueue r else r) = takesChanges s := by
    rw [← hst]; split <;> simp [takesChanges]
  rw [tc]
  rcases hs with h | h
  · have : s.stc.station ≠ .silent := by intro e; simp [takesChanges, e] at h
    rw [if_pos h, if_neg this]
    unfold applyDueChanges; dsimp only
    have q : (if flushes (classify s.rfr p) = true then flushQueue r else r).chs.queue =
        if s.rfr.known = true ∧ (p = s.rfr.position ∨ p.toNat = s.rfr.position.toNat + 1) then s.chs.queue else [] := by
      rw [flushes_classify]
      by_cases k : s.rfr.known = true ∧ (p = s.rfr.position ∨ p.toNat = s.rfr.position.toNat + 1) <;>
        simp [k, flushQueue, hc]
    have d : (if flushes (classify s.rfr p) = true then flushQueue r else r).chs.due = s.chs.due := by
      split <;> simp [flushQueue, hc]
    have pos : (if flushes (classify s.rfr p) = true then flushQueue r else r).rfr.position = p := by
      split <;> simp [hp]
    unfold ripeEntries
    rw [q, d, pos]
    apply SameDesk.applyChanges
    split <;> simpa [SameDesk, flushQueue] using hd
  · have : takesChanges s = false := by simp [takesChanges, h]
    rw [if_pos h, if_neg (by simp [this])]
    split <;> simpa [SameDesk, flushQueue] using hd

end Sys2Proof.Machine
end

