-- ==== Sys2Proof/Laws/Latch.lean ====
section
/-! SUPPORT. The Overdepth latch through each shared operation (R51, R105, R106, R107): what keeps it, and what a write to Source
makes of it. -/

namespace Sys2Proof.Machine

variable {s t : State} {ch : Chan}

/-- Whatever the first state latched, the second holds latched. -/
def KeepsLatch (ch : Chan) (s t : State) : Prop :=
  alignAt s ch = .overdepth → alignAt t ch = .overdepth

theorem KeepsLatch.of_alu (h : t.alu = s.alu) : KeepsLatch ch s t := by
  intro k; unfold alignAt at *; rw [h]; exact k

theorem KeepsLatch.trans {u : State} (h : KeepsLatch ch s t) (k : KeepsLatch ch t u) : KeepsLatch ch s u :=
  fun x => k (h x)

/-- A settling keeps every latch (R106). -/
theorem settle_latch (s : State) (ch : Chan) : KeepsLatch ch s (settle s) := by
  intro h
  have := settled_keeps_latch s ch h
  simpa [alignAt, settle] using this

/-- The state a write to Source settles: the source stored, the channel evaluated for it (R51). -/
def sourceEvaluated (c : Chan) (w : Word) (s : State) : State :=
  evaluateChannel c (setChannel s c { channelAt s c with source := sourceOf w })

/-- A write to Source settles from the channel evaluated for the source stored (R51). -/
theorem writeSource_alu (c : Chan) (w : Word) (s : State) : (writeSource c w s).alu = (settled (sourceEvaluated c w s)).1 := by
  unfold writeSource sourceEvaluated; dsimp only
  rw [show ∀ x, (settle x).alu = (settled x).1 from fun x => by simp [settle]]
  rw [settled_congr (s := evaluateChannel c (setChannel s c { channelAt s c with source := sourceOf w }))] <;> simp

/-- Where the first branch of a choice is not the outcome, the second is. -/
theorem else_of_ne {α : Type} {p : Prop} [Decidable p] {a b c : α} (h : (if p then a else b) = c) (ha : a ≠ c) : b = c := by
  by_cases hp : p
  · rw [if_pos hp] at h; exact absurd h ha
  · rwa [if_neg hp] at h

/-- The id of Source is 0 and no other (R41). -/
theorem paramOf_source {id : BitVec 16} (h : paramOf id = .source) : id.toNat = 0 := by
  unfold paramOf at h
  by_contra hn
  rw [if_neg hn] at h
  iterate 14 replace h := else_of_ne h nofun
  cases h

/-- The kind of a Rearm is 7 and no other (R137). -/
theorem kindOf_rearm {n : Nat} (h : kindOf n = .rearm) : n = 7 := by
  unfold kindOf at h
  by_contra hn
  rw [if_neg hn] at h
  repeat (split at h; · cases h)
  cases h

/-- A write keeps the latch of another channel, and of its own where it does not write Source (R51, R106). -/
theorem applyWrite_latch (c : Chan) (id : BitVec 16) (w : Word) (s : State) (h : ch ≠ c ∨ id ≠ 0) :
    KeepsLatch ch s (applyWrite c id w s) := by
  unfold applyWrite
  split
  · next e =>
    have hid : id = 0 := BitVec.eq_of_toNat_eq (paramOf_source e)
    have hc : ch ≠ c := h.resolve_right (by simp [hid])
    intro k
    show (writeSource c w s).alu.channels.get ch = _
    rw [writeSource_alu]
    apply settled_keeps_latch
    simpa [sourceEvaluated, evaluateChannel, alignAt, setAlign, Table.get_put, hc] using k
  all_goals first
    | exact KeepsLatch.of_alu (by simp)
    | exact KeepsLatch.of_alu rfl
    | skip
  exact (KeepsLatch.of_alu (by simp [setSend])).trans (settle_latch _ _)

/-- Changes none of which writes the channel's Source keep its latch. -/
theorem applyChanges_latch (cs : List LaneChange) (s : State) (h : ∀ x ∈ cs, ∀ w, x.change ≠ .strip ch 0 w) :
    KeepsLatch ch s (cs.foldl applyChange s) := by
  induction cs generalizing s with
  | nil => exact id
  | cons x cs ih =>
    refine KeepsLatch.trans ?_ (ih _ fun y hy => h y (List.mem_cons_of_mem _ hy))
    have hx := h x List.mem_cons_self
    unfold applyChange
    split
    · next c id w e =>
      apply applyWrite_latch
      by_contra hn
      push Not at hn
      exact hx w (by rw [e, hn.1, hn.2])
    · exact KeepsLatch.of_alu (by simp)

/-- A station reset keeps every latch (R111). -/
theorem stationResetTaken_latch (straps : BitVec 4) (s : State) (ch : Chan) : KeepsLatch ch s (stationResetTaken straps s) := by
  intro h
  have : (settled (stationResetBlocks straps s)).1.channels.get ch = .overdepth := by
    apply settled_keeps_latch
    simp only [alignAt] at h
    simp [stationResetBlocks, alignAt, stationResetAlu, h]
  simpa [stationResetTaken, alignAt] using this

/-- A completed message that is no well-formed Rearm keeps every latch (R106, R143). -/
theorem completeMessage_latch (lane : LaneIx) (straps : BitVec 4) (head : Word) (payload : List Word) (s : State)
    (h : headKind head ≠ 7 ∨ payload.length ≠ 1) : KeepsLatch ch s (completeMessage lane straps head payload s) := by
  have one : ∀ act : Word → State → State, (∀ a, KeepsLatch ch s (act a s)) → KeepsLatch ch s (judgeOne act payload s) := by
    intro act k; unfold judgeOne; split
    · exact k _
    · exact KeepsLatch.of_alu (by simp)
  have none : ∀ act : State → State, KeepsLatch ch s (act s) → KeepsLatch ch s (judgeNone act payload s) := by
    intro act k; unfold judgeNone; split
    · exact k
    · exact KeepsLatch.of_alu (by simp)
  unfold completeMessage
  split
  · exact KeepsLatch.of_alu (by simp)
  · exact one _ fun a => KeepsLatch.of_alu (by simp)
  · exact KeepsLatch.of_alu (by simp)
  · exact one _ fun a => KeepsLatch.of_alu (by simp)
  · exact one _ fun a => KeepsLatch.of_alu (by simp)
  · exact one _ fun a => KeepsLatch.of_alu (by simp)
  · next e =>
    unfold judgeOne; split
    · exact absurd (kindOf_rearm e) (h.resolve_right (by simp))
    · exact KeepsLatch.of_alu (by simp)
  · exact one _ fun a => KeepsLatch.of_alu (by simp)
  · exact none _ (KeepsLatch.of_alu (by simp))
  · apply none
    unfold takeStationReset onStation
    split
    · exact KeepsLatch.of_alu (by simp)
    · split
      · exact stationResetTaken_latch _ _ _
      · exact id
  · exact id
  · exact KeepsLatch.of_alu (by simp)

/-- A word of a stream in which no Rearm is under way keeps every latch. -/
theorem takeWord_latch (lane : LaneIx) (straps : BitVec 4) (w : Word) (s : State)
    (h : ∀ mark head n soFar, reassemblyAt s lane = .collecting mark head n soFar → headKind head ≠ 7) :
    KeepsLatch ch s (takeWord lane straps w s) := by
  unfold takeWord
  split
  · repeat' split
    · exact id
    · exact completeMessage_latch _ _ _ _ _ (.inr (by simp))
    · exact KeepsLatch.of_alu (by simp)
  · next mark head n soFar e =>
    split
    · exact KeepsLatch.of_alu (by simp)
    · dsimp only; split
      · exact KeepsLatch.trans (KeepsLatch.of_alu (by simp)) (completeMessage_latch _ _ _ _ _ (.inl (h _ _ _ _ e)))
      · exact KeepsLatch.of_alu (by simp)

/-- No Rearm is under way in the lane's stream: none collected before, none that the slot 0 word begins (R136, R139). -/
def NoRearm (s : State) (lane : LaneIx) (w0 : Word) : Prop :=
  (∀ mark head n soFar, reassemblyAt s lane = .collecting mark head n soFar → headKind head ≠ 7) ∧
  (reassemblyAt s lane = .idle → headKind w0 ≠ 7)

/-- A completed message leaves the reassembly records, but for a station reset, which empties them (R141). -/
theorem completeMessage_reassembly (lane : LaneIx) (straps : BitVec 4) (head : Word) (ws : List Word) (s : State) :
    (completeMessage lane straps head ws s).mse.reassembly = s.mse.reassembly ∨
      (completeMessage lane straps head ws s).mse.reassembly = Mse.cleared.reassembly := by
  apply completeMessage_cases (P := fun t => t.mse.reassembly = s.mse.reassembly ∨ t.mse.reassembly = Mse.cleared.reassembly)
  all_goals intros
  all_goals try (left; simp)
  unfold takeStationReset onStation
  split
  · left; simp
  · split
    · right; simp [stationResetTaken, stationResetBlocks]
    · left; rfl

/-- A completed message leaves an Idle record Idle. -/
theorem completeMessage_idle (lane : LaneIx) (straps : BitVec 4) (head : Word) (ws : List Word) (s : State) (n : LaneIx)
    (h : reassemblyAt s n = .idle) : reassemblyAt (completeMessage lane straps head ws s) n = .idle := by
  unfold reassemblyAt at *
  rcases completeMessage_reassembly lane straps head ws s with e | e <;> rw [e]
  · exact h
  · exact Table.get_fill _ _

/-- A word of a stream in which no Rearm is under way leaves none under way (R139). -/
theorem takeWord_noRearm (lane : LaneIx) (straps : BitVec 4) (w : Word) (s : State) (h : NoRearm s lane w)
    (mark : DiscardMark) (head : Word) (n : Nat) (soFar : List Word)
    (e : reassemblyAt (takeWord lane straps w s) lane = .collecting mark head n soFar) : headKind head ≠ 7 := by
  have put : ∀ r, reassemblyAt (setReassembly s lane r) lane = r := fun r => by simp [reassemblyAt, setReassembly]
  revert e; unfold takeWord
  split
  · next hi =>
    split
    · intro e; exact h.1 _ _ _ _ e
    · split
      · rw [completeMessage_idle _ _ _ _ _ _ hi]; nofun
      · rw [put]; intro e; cases e; exact h.2 hi
  · next hc =>
    split
    · rw [put]; intro e; cases e; exact h.1 _ _ _ _ hc
    · dsimp only; split
      · rw [completeMessage_idle _ _ _ _ _ _ (put _)]; nofun
      · rw [put]; nofun

/-- The slot words of an arrival in which no Rearm is under way keep every latch. -/
theorem takeSlots_latch (lane : LaneIx) (straps : BitVec 4) (w0 w1 : Word) (s : State) (h : NoRearm s lane w0) :
    KeepsLatch ch s (takeSlots lane straps w0 w1 s) := by
  have h0 := takeWord_latch (ch := ch) lane straps w0 s h.1
  unfold takeSlots; dsimp only
  split
  · exact h0
  · exact h0.trans (takeWord_latch _ _ _ _ (takeWord_noRearm lane straps w0 s h))

/-- A lane's leaving Present keeps every latch (R17, R106). -/
theorem leavePresent_latch (lane : LaneIx) (s : State) (ch : Chan) : KeepsLatch ch s (leavePresent lane s) := by
  unfold leavePresent; dsimp only
  refine KeepsLatch.trans (t := evalLinkScopes (setCollection (setReassembly (setLane s lane
    { laneAt s lane with scopes := Table.fill 8 false, needs := Table.fill 48 none }) lane .idle) lane BindCollection.cleared))
    (KeepsLatch.of_alu (by simp)) (settle_latch _ _)

/-- The arrival of a lane with no Rearm under way in its stream keeps every latch (R106). -/
theorem laneArrives_latch (lane : LaneIx) (rx : Reception) (straps : BitVec 4) (s : State)
    (h : ∀ ws, rx = .words ws → NoRearm s lane (ws.get 51)) : KeepsLatch ch s (laneArrives lane rx straps s) := by
  unfold laneArrives
  split
  · exact KeepsLatch.of_alu (by simp)
  · unfold peerArrival; dsimp only
    generalize (presenceStep (laneAt s lane) (arrivalKind (validWords lane rx))) = ps
    unfold actOnPresence
    split
    · exact KeepsLatch.of_alu (by simp)
    · split
      · next ws e =>
        have hw : rx = .words ws := by
          unfold validWords at e; split at e
          · cases e
          · cases e
          · split at e
            · cases e; rfl
            · cases e
        unfold takeContents
        refine KeepsLatch.trans ?_ (takeSlots_latch lane straps (ws.get 51) (ws.get 52) _ ?_)
        · refine KeepsLatch.trans (t := evalLinkScopes (storeHeader lane ws (setLane s lane ps.1))) (KeepsLatch.of_alu (by simp)) ?_
          exact (settle_latch _ _).trans (KeepsLatch.of_alu (by simp))
        · have := h ws hw
          simpa [NoRearm, reassemblyAt] using this
      · exact KeepsLatch.of_alu (by simp)
    · exact KeepsLatch.of_alu (by simp)
    · exact KeepsLatch.trans (KeepsLatch.of_alu (by simp)) (leavePresent_latch _ _ _)
    · exact KeepsLatch.trans (KeepsLatch.trans (t := setLane s lane ps.1) (KeepsLatch.of_alu (by simp)) (leavePresent_latch lane _ _))
        (KeepsLatch.of_alu (by simp [losePeer]))

/-- The applications of a strobe keep the latch of a channel whose Source they do not write. -/
theorem changesAtStrobe_latch (e : StrobeEvent) (s : State)
    (h : takesChanges s = true → ∀ x ∈ ((if flushes e then [] else s.chs.queue).takeWhile
      fun q => decide (q.target.toNat ≤ s.rfr.position.toNat)).map (fun q => q.change) ++ s.chs.due,
        ∀ w, x.change ≠ .strip ch 0 w) : KeepsLatch ch s (changesAtStrobe e s) := by
  have key : ∀ t : State, t.alu = s.alu → takesChanges t = takesChanges s → t.rfr = s.rfr →
      t.chs.queue = (if flushes e then [] else s.chs.queue) → t.chs.due = s.chs.due →
      KeepsLatch ch s (if takesChanges t then applyDueChanges t else t) := by
    intro t h1 h2 h3 h4 h5
    split
    · next ht =>
      unfold applyDueChanges ripeEntries; dsimp only
      rw [h3, h4, h5]
      refine KeepsLatch.trans ?_ (applyChanges_latch _ _ (h (h2 ▸ ht)))
      exact KeepsLatch.of_alu (by simpa using h1)
    · exact KeepsLatch.of_alu h1
  unfold changesAtStrobe; dsimp only
  apply key <;> split <;> simp [flushQueue, takesChanges, *]

/-- The end of Isolated keeps every latch (R112). -/
theorem leaveIsolated_latch (s : State) (ch : Chan) : KeepsLatch ch s (leaveIsolated s) := by
  unfold leaveIsolated
  refine KeepsLatch.trans ?_ (settle_latch _ _)
  exact KeepsLatch.of_alu (by simp)

/-- The change of station a strobe brings keeps every latch (R32, R112). -/
theorem stationAtStrobe_latch (s : State) (ch : Chan) : KeepsLatch ch s (stationAtStrobe s) := by
  unfold stationAtStrobe
  split
  · exact (leaveIsolated_latch s ch).trans (KeepsLatch.of_alu (by simp))
  · exact KeepsLatch.of_alu (by simp)
  · split <;> exact KeepsLatch.of_alu (by simp)
  all_goals exact id

/-- What the change of station leaves to apply: nothing at the end of Isolated (R32), else what stood. -/
theorem stationAtStrobe_changes (s : State) :
    (takesChanges (stationAtStrobe s) = takesChanges s ∧ (stationAtStrobe s).chs = s.chs) ∨
      (stationAtStrobe s).chs = Chs.cleared := by
  unfold stationAtStrobe
  split
  · right; simp [leaveIsolated, clearScheduler]
  · next h => left; simp [takesChanges, h]
  · next h => left; split <;> simp [takesChanges, h, enterContributing, startMetering, queueAnnounce]
  all_goals left; simp

/-- A strobe that applies no write to the channel's Source keeps its latch (R106, R112, R166). -/
theorem strobeTaken_latch (p : Position) (inputs : Table 48 Sample) (s : State)
    (h : takesChanges s = true →
      let queue := if s.rfr.known = true ∧ (p = s.rfr.position ∨ p.toNat = s.rfr.position.toNat + 1) then s.chs.queue else []
      ∀ x ∈ (queue.takeWhile fun e => decide (e.target.toNat ≤ p.toNat)).map (fun e => e.change) ++ s.chs.due,
        ∀ w, x.change ≠ .strip ch 0 w) : KeepsLatch ch s (strobeTaken p inputs s) := by
  by_cases hb : s.stc.station = .booting
  · apply KeepsLatch.of_alu
    unfold strobeTaken; dsimp only; rw [if_pos (by simpa using hb)]; simp
  rw [strobeTaken_eq _ _ _ hb]
  refine KeepsLatch.trans ?_ (KeepsLatch.of_alu (t := openByStation s (formedAtStrobe p inputs s))
    (s := changesAtStrobe (classify s.rfr p) (closeFrame (stationAtStrobe (takeStrobe p s)))) ?_)
  · refine KeepsLatch.trans (t := closeFrame (stationAtStrobe (takeStrobe p s))) ?_ (changesAtStrobe_latch _ _ ?_)
    · exact KeepsLatch.trans (KeepsLatch.trans (t := takeStrobe p s) (KeepsLatch.of_alu (by simp)) (stationAtStrobe_latch _ _))
        (KeepsLatch.of_alu (by simp))
    · have hp : (takeStrobe p s).rfr.position = p := by simp [takeStrobe, strobeRfr]
      have hs : takesChanges (takeStrobe p s) = takesChanges s := by simp [takesChanges]
      have hc : takesChanges (closeFrame (stationAtStrobe (takeStrobe p s))) = takesChanges (stationAtStrobe (takeStrobe p s)) := by
        simp [takesChanges]
      simp only [hc, closeFrame_keeps, stationAtStrobe_keeps, hp]
      rcases stationAtStrobe_changes (takeStrobe p s) with ⟨e1, e2⟩ | e
      · rw [e1, e2, hs]
        intro ht
        have hk := h ht
        rw [flushes_classify]
        have hch : (takeStrobe p s).chs = s.chs := by simp [takeStrobe]
        rw [hch]
        by_cases k : s.rfr.known = true ∧ (p = s.rfr.position ∨ p.toNat = s.rfr.position.toNat + 1)
        · simpa [k] using hk
        · dsimp only at hk; rw [if_neg k] at hk
          simpa [k] using hk
      · rw [e]; intro _; simp [Chs.cleared]
  · simp [formedAtStrobe]

end Sys2Proof.Machine
end

