-- ==== Sys2Proof/WellFormed.lean ====
section
/-! DEFINITION. Which message commands are well formed (R142). The operand types hold every other bound: a lane 0..15, a
port 0..5, 54 lane words, 22 record bytes. -/

namespace Sys2Proof

/-- The count of a Bind is 1..4 (R142). -/
def bindCountOk (count : Word) : Bool :=
  decide (1 ≤ count.toNat) && decide (count.toNat ≤ 4)

/-- A station-addressed kind has no destination 30 (R142). -/
def stationDestOk (dest : BitVec 5) : Bool :=
  decide (dest.toNat ≠ 30)

/-- A command whose message, where it stands for one, is not malformed under R142. A malformed one still has its effect: it
is skipped and reported (R142). -/
def wellFormed (i : Instr) : Bool :=
  match i with
  | .powerOn _ => true
  | .resetPinAsserted => true
  | .pinReset _ => true
  | .stationReset dest _ => stationDestOk dest
  | .bootReadComplete _ => true
  | .bootReadNoAnswer => true
  | .strobe _ _ => true
  | .loss => true
  | .laneArrival _ _ _ => true
  | .lockGained _ => true
  | .lockLost _ => true
  | .stripSet _ _ _ _ _ => true
  | .stripQuery _ _ _ => true
  | .groupLevel _ _ _ _ => true
  | .bind _ count => bindCountOk count
  | .watch _ => true
  | .unwatch _ => true
  | .rearm _ => true
  | .clearConditions dest _ => stationDestOk dest
  | .rollCall dest => stationDestOk dest
  | .laneLost _ => true
  | .laneConflict => true
  | .joiningComplete => true
  | .endOfListening => true
  | .windowEnd => true
  | .pendingSetApplication _ => true
  | .setClose _ => true

end Sys2Proof
end

