-- ==== Sys2Proof/Laws/PerInstr.lean ====
section
/-! SUPPORT. One law for each command: which message commands R142 calls malformed, and that no other command is. -/

namespace Sys2Proof.Laws.Malformed

/-- A malformed command is a Bind with a count outside 1..4, or a station-addressed kind with destination 30 (R142). -/
def Statement (i : Instr) : Prop :=
  wellFormed i = false ↔
    (∃ lane count, i = .bind lane count ∧ (count.toNat = 0 ∨ 4 < count.toNat)) ∨
    (∃ dest straps, i = .stationReset dest straps ∧ dest.toNat = 30) ∨
    (∃ dest mask, i = .clearConditions dest mask ∧ dest.toNat = 30) ∨
    ∃ dest, i = .rollCall dest ∧ dest.toNat = 30

theorem powerOn (straps : BitVec 4) : Statement (.powerOn straps) := by
  simp [Statement, wellFormed]

theorem resetPinAsserted : Statement (.resetPinAsserted) := by
  simp [Statement, wellFormed]

theorem pinReset (straps : BitVec 4) : Statement (.pinReset straps) := by
  simp [Statement, wellFormed]

theorem stationReset (dest : BitVec 5) (straps : BitVec 4) : Statement (.stationReset dest straps) := by
  simp [Statement, wellFormed, stationDestOk]

theorem bootReadComplete (record : Table 22 Byte) : Statement (.bootReadComplete record) := by
  simp [Statement, wellFormed]

theorem bootReadNoAnswer : Statement (.bootReadNoAnswer) := by
  simp [Statement, wellFormed]

theorem strobe (position : Position) (inputs : Table 48 Sample) : Statement (.strobe position inputs) := by
  simp [Statement, wellFormed]

theorem loss : Statement (.loss) := by
  simp [Statement, wellFormed]

theorem laneArrival (lane : LaneIx) (rx : Reception) (straps : BitVec 4) : Statement (.laneArrival lane rx straps) := by
  simp [Statement, wellFormed]

theorem lockGained (port : PortIx) : Statement (.lockGained port) := by
  simp [Statement, wellFormed]

theorem lockLost (port : PortIx) : Statement (.lockLost port) := by
  simp [Statement, wellFormed]

theorem stripSet (lane : LaneIx) (strip param : BitVec 16) (value : Word) (stamp : Option Position) : Statement (.stripSet lane strip param value stamp) := by
  simp [Statement, wellFormed]

theorem stripQuery (lane : LaneIx) (strip param : BitVec 16) : Statement (.stripQuery lane strip param) := by
  simp [Statement, wellFormed]

theorem groupLevel (lane : LaneIx) (groupFlags master : Word) (stamp : Option Position) : Statement (.groupLevel lane groupFlags master stamp) := by
  simp [Statement, wellFormed]

theorem bind (lane : LaneIx) (count : Word) : Statement (.bind lane count) := by
  simp [Statement, wellFormed, bindCountOk]; omega

theorem watch (strip : BitVec 16) : Statement (.watch strip) := by
  simp [Statement, wellFormed]

theorem unwatch (strip : BitVec 16) : Statement (.unwatch strip) := by
  simp [Statement, wellFormed]

theorem rearm (strip : BitVec 16) : Statement (.rearm strip) := by
  simp [Statement, wellFormed]

theorem clearConditions (dest : BitVec 5) (mask : Byte) : Statement (.clearConditions dest mask) := by
  simp [Statement, wellFormed, stationDestOk]

theorem rollCall (dest : BitVec 5) : Statement (.rollCall dest) := by
  simp [Statement, wellFormed, stationDestOk]

theorem laneLost (lane : LaneIx) : Statement (.laneLost lane) := by
  simp [Statement, wellFormed]

theorem laneConflict : Statement (.laneConflict) := by
  simp [Statement, wellFormed]

theorem joiningComplete : Statement (.joiningComplete) := by
  simp [Statement, wellFormed]

theorem endOfListening : Statement (.endOfListening) := by
  simp [Statement, wellFormed]

theorem windowEnd : Statement (.windowEnd) := by
  simp [Statement, wellFormed]

theorem pendingSetApplication (ramp : RampId) : Statement (.pendingSetApplication ramp) := by
  simp [Statement, wellFormed]

theorem setClose (lane : LaneIx) : Statement (.setClose lane) := by
  simp [Statement, wellFormed]

end Sys2Proof.Laws.Malformed
end

