-- ==== Sys2Proof/Laws/Settled.lean ====
section
/-! SUPPORT. A state that a settling leaves is settled in the sense of R92, R93 and R95, and in a settled state a settling does
nothing; which parts of the state the alignment state depends on. -/

namespace Sys2Proof.Machine

/-- The sources, the send buses, the peers' presence and their needs agree: all that a settling reads beside the Alignment
Unit (R97). -/
def SameRouting (s t : State) : Prop := t.stc.nodeId = s.stc.nodeId ∧
  (∀ c, (channelAt t c).source = (channelAt s c).source ∧
    ∀ k, ((channelAt t c).sends.get k).bus = ((channelAt s c).sends.get k).bus) ∧
  ∀ n, n ≠ s.stc.nodeId → ((laneAt t n).presence = .present ↔ (laneAt s n).presence = .present) ∧
    ((laneAt s n).presence = .present → (laneAt t n).needs = (laneAt s n).needs)

/-- States with one node ID, one Channel Table and one Lane Table have one routing. -/
theorem SameRouting.of_tables {s t : State} (hn : t.stc.nodeId = s.stc.nodeId) (hs : t.sst = s.sst)
    (hl : t.lif.lanes = s.lif.lanes) : SameRouting s t := by
  unfold SameRouting channelAt laneAt; rw [hn, hs, hl]; simp

/-- With one routing and one Alignment Unit, one state is settled where the other is. -/
theorem alignmentOk_congr {s t : State} (h : SameRouting s t) (ha : t.alu = s.alu) (i : AlignmentOk s) :
    AlignmentOk t := by
  obtain ⟨hn, hc, hl⟩ := h
  obtain ⟨a, b, d⟩ := i
  have hS : ∀ b d, SendsAtDepth t b d ↔ SendsAtDepth s b d := by
    intro b d; unfold SendsAtDepth alignAt; rw [ha]; simp only [(hc _).2]
  have hH : ∀ b d, NeedHeard t b d ↔ NeedHeard s b d := by
    intro b d; unfold NeedHeard; rw [ha, hn]
    apply or_congr Iff.rfl
    apply exists_congr; intro n
    constructor
    · rintro ⟨h1, h2, h3⟩
      have := (hl n h1).1.mp h2
      exact ⟨h1, this, by rw [← (hl n h1).2 this]; exact h3⟩
    · rintro ⟨h1, h2, h3⟩
      exact ⟨h1, (hl n h1).1.mpr h2, by rw [(hl n h1).2 h2]; exact h3⟩
  refine ⟨?_, ?_, ?_⟩
  · intro c; have := a c; unfold ChannelDepthOk alignAt at *; rw [(hc c).1, ha]; exact this
  · intro x; simp only [hS]; rw [ha]; exact b x
  · intro b; simp only [hH]; rw [ha]; exact d b

/-- Every latched channel has a return as its source (R92, R106). -/
def LatchesAreReturns (s : State) : Prop := ∀ c, alignAt s c = .overdepth → ∃ b, (channelAt s c).source = .busReturn b

/-- In a settled state every latched channel has a return as its source. -/
theorem AlignmentOk.latches {s : State} (i : AlignmentOk s) : LatchesAreReturns s := by
  intro c h; have := i.1 c; unfold ChannelDepthOk at this; rw [h] at this
  cases e : (channelAt s c).source <;> rw [e] at this <;> simp_all

/-- A settling latches returns alone. -/
theorem settleLoop_latches_returns (s : State) (n : Nat) (a : Alu) (l : Bool)
    (h : ∀ c, a.channels.get c = .overdepth → ∃ b, (channelAt s c).source = .busReturn b) :
    ∀ c, (settleLoop s n a l).1.channels.get c = .overdepth → ∃ b, (channelAt s c).source = .busReturn b := by
  induction n generalizing a l with
  | zero => exact h
  | succ n ih =>
    unfold settleLoop; dsimp only; split
    · exact h
    · apply ih
      intro c hc
      rw [pass_channels] at hc
      cases hs : (channelAt s c).source with
      | busReturn b => exact ⟨b, rfl⟩
      | input x => 
        cases ha : a.channels.get c with
        | overdepth => have := h c ha; rw [hs] at this; exact this
        | normal d => rw [ha, hs] at hc; simp [evaluate] at hc
      | none => 
        cases ha : a.channels.get c with
        | overdepth => have := h c ha; rw [hs] at this; exact this
        | normal d => rw [ha, hs] at hc; simp [evaluate] at hc

/-- A channel sends to a bus where one of its sends carries that bus (R93). -/
theorem sendsTo_iff (r : ChannelRecord) (b : Bus) : sendsTo r b = true ↔ ∃ k, (r.sends.get k).bus = some b := by
  unfold sendsTo; rw [Table.any_cells]; simp

/-- The larger of two needs is none only where both are. -/
theorem maxNeed_none {x y : Need} (h : maxNeed x y = none) : x = none ∧ y = none := by
  cases x <;> cases y <;> simp [maxNeed] at h ⊢
  split at h <;> cases h

/-- A channel asks a depth of a bus where it is Normal at that depth and sends to the bus (R93). -/
theorem needOfChannel_some_iff (s : State) (b : Bus) (d : Depth) :
    (∃ c, needOfChannel s s.alu.channels b c = some d) ↔ SendsAtDepth s b d := by
  unfold SendsAtDepth
  apply exists_congr; intro c
  unfold needOfChannel alignAt
  cases s.alu.channels.get c with
  | overdepth => simp
  | normal e =>
    simp only [Option.ite_none_right_eq_some, sendsTo_iff, Align.normal.injEq]
    constructor
    · rintro ⟨⟨k, h⟩, h2⟩; exact ⟨k, by simpa using h2, h⟩
    · rintro ⟨k, h, h2⟩; exact ⟨⟨k, h2⟩, by simpa using h⟩

/-- The own need of a pass is at least the depth of each channel that sends to the bus. -/
theorem ownNeedOf_ge {s : State} {b : Bus} {d : Depth} (h : SendsAtDepth s b d) :
    ∃ e, ownNeedOf s s.alu.channels b = some e ∧ d ≤ e := by
  obtain ⟨c, hc⟩ := (needOfChannel_some_iff s b d).mpr h
  exact foldNeed_ge (needOfChannel s s.alu.channels b) _ none d (.inr ⟨c, List.mem_finRange c, hc⟩)

/-- The own need of a pass is the depth of a channel that sends to the bus. -/
theorem ownNeedOf_mem {s : State} {b : Bus} {d : Depth} (h : ownNeedOf s s.alu.channels b = some d) :
    SendsAtDepth s b d := by
  rcases foldNeed_mem _ _ _ _ h with h | ⟨c, _, h⟩
  · cases h
  · exact (needOfChannel_some_iff s b d).mp ⟨c, h⟩

/-- A Present peer lane needs a depth of a bus (R94, R95). -/
def PeerNeeds (s : State) (b : Bus) (d : Depth) : Prop :=
  ∃ n, n ≠ s.stc.nodeId ∧ (laneAt s n).presence = .present ∧ (laneAt s n).needs.get b = some d

/-- The largest peer need is at least each peer's need. -/
theorem peerNeedOf_ge {s : State} {b : Bus} {d : Depth} (h : PeerNeeds s b d) : ∃ e, peerNeedOf s b = some e ∧ d ≤ e := by
  obtain ⟨n, h1, h2, h3⟩ := h
  exact foldNeed_ge (fun n => if peerPresent s n then (laneAt s n).needs.get b else none) _ none d
    (.inr ⟨n, List.mem_finRange n, by simp [peerPresent, h1, h2, h3]⟩)

/-- The largest peer need is a peer's need. -/
theorem peerNeedOf_mem {s : State} {b : Bus} {d : Depth} (h : peerNeedOf s b = some d) : PeerNeeds s b d := by
  rcases foldNeed_mem _ _ _ _ h with h | ⟨n, _, h⟩
  · cases h
  · exact ⟨n, by simpa [peerPresent, and_assoc] using h⟩

/-- Where a pass changes nothing the state is settled (R92, R93, R95). -/
theorem alignmentOk_of_pass {s : State} (hf : settlingPass s s.alu = s.alu) (hl : LatchesAreReturns s) : AlignmentOk s := by
  have hch : ∀ c d, alignAt s c = .normal d → evaluate (channelAt s c).source s.alu.aligned = .normal d := by
    intro c d h
    have := pass_channels s s.alu c
    rw [hf] at this; unfold alignAt at h; rw [h] at this; exact this.symm
  have hown : ∀ b, s.alu.ownNeeds.get b = ownNeedOf s s.alu.channels b := by
    intro b
    have h1 : (settlingPass s s.alu).ownNeeds.get b = ownNeedOf s (passAlign s s.alu) b := by simp [settlingPass]
    have h2 : passAlign s s.alu = s.alu.channels := congrArg Alu.channels hf
    rw [hf, h2] at h1; exact h1
  have hal : ∀ b, s.alu.aligned.get b = alignedOf s (s.alu.ownNeeds.get b) b := by
    intro b
    have h1 : (settlingPass s s.alu).aligned.get b = alignedOf s ((settlingPass s s.alu).ownNeeds.get b) b := by simp [settlingPass]
    rw [hf] at h1; exact h1
  refine ⟨?_, ?_, ?_⟩
  · intro c
    unfold ChannelDepthOk
    cases ha : alignAt s c with
    | overdepth => obtain ⟨b, hb⟩ := hl c ha; rw [hb]; simp
    | normal d =>
      have := hch c d ha
      rcases evaluate_eq (channelAt s c).source s.alu.aligned with e | ⟨b, hb, ⟨_, e⟩ | ⟨d', e, hd⟩⟩
      · replace e := this.symm.trans e
        cases hs : (channelAt s c).source with
        | input x => simpa using e
        | none => simpa using e
        | busReturn b =>
          rw [hs] at this; simp only [evaluate] at this
          right; refine ⟨d, rfl, ?_⟩
          split at this
          · cases this; rfl
          · cases this
      · rw [this] at e; cases e
      · rw [e] at this; cases this; rw [hb]; exact .inr ⟨d, rfl, hd⟩
  · intro b
    refine ⟨?_, ?_⟩
    · intro d h
      exact ownNeedOf_mem (hown b ▸ h)
    · intro d h
      rw [hown]
      exact ownNeedOf_ge h
  · intro b
    rw [hal]; unfold alignedOf NeedHeard
    cases hm : maxNeed (s.alu.ownNeeds.get b) (peerNeedOf s b) with
    | none =>
      have := maxNeed_none hm
      have hno : ∀ d, ¬ (s.alu.ownNeeds.get b = some d ∨ PeerNeeds s b d) := by
        rintro d (h | h)
        · rw [this.1] at h; cases h
        · obtain ⟨e, he, _⟩ := peerNeedOf_ge h; rw [this.2] at he; cases he
      exact ⟨fun d h => absurd h (hno d), .inr ⟨rfl, hno⟩⟩
    | some m =>
      refine ⟨?_, .inl ?_⟩
      · rintro d (h | h)
        · rw [h] at hm; obtain ⟨e, he, hle⟩ := le_maxNeed_left d (peerNeedOf s b)
          rw [hm] at he; cases he; exact hle
        · obtain ⟨e, he, hle⟩ := peerNeedOf_ge h
          rw [he] at hm; obtain ⟨e', he', hle'⟩ := le_maxNeed_right (s.alu.ownNeeds.get b) e
          rw [hm] at he'; cases he'; exact hle.trans hle'
      · rcases maxNeed_eq (s.alu.ownNeeds.get b) (peerNeedOf s b) with h | h
        · left; rw [← h, hm]; rfl
        · right; apply peerNeedOf_mem; rw [← h, hm]; rfl

/-- A pass depends on the routing alone. -/
theorem settlingPass_routing {s t : State} (h : SameRouting s t) (a : Alu) : settlingPass t a = settlingPass s a := by
  obtain ⟨hn, hc, hl⟩ := h
  have h1 : passAlign t a = passAlign s a := by unfold passAlign; simp only [(hc _).1]
  have h2 : ∀ al b, ownNeedOf t al b = ownNeedOf s al b := by
    intro al b; unfold ownNeedOf
    apply foldNeed_congr; intro c; unfold needOfChannel
    have : sendsTo (channelAt t c) b = sendsTo (channelAt s c) b := by
      rw [Bool.eq_iff_iff, sendsTo_iff, sendsTo_iff]; simp only [(hc c).2]
    rw [this]
  have h3 : ∀ b, peerNeedOf t b = peerNeedOf s b := by
    intro b; unfold peerNeedOf; apply foldNeed_congr; intro n
    by_cases e : n = s.stc.nodeId
    · simp [peerPresent, hn, e]
    · by_cases p : (laneAt s n).presence = .present
      · simp [peerPresent, hn, e, p, (hl n e).1.mpr p, (hl n e).2 p]
      · have : ¬ (laneAt t n).presence = .present := fun q => p ((hl n e).1.mp q)
        simp [peerPresent, p, this]
  unfold settlingPass alignedOf; simp only [h1, h2, h3]

/-- What a settling leaves is settled. -/
theorem alignmentOk_settled (s : State) (hl : LatchesAreReturns s) : AlignmentOk (s.setAlu (settled s).1) := by
  apply alignmentOk_of_pass
  · rw [settlingPass_routing (s := s) (t := s.setAlu (settled s).1) (SameRouting.of_tables rfl rfl rfl)]
    exact settled_pass s
  · intro c h; exact settleLoop_latches_returns s _ _ _ hl c h

/-- A settling as part of an event leaves a settled state. -/
theorem alignmentOk_settle (s : State) (hl : LatchesAreReturns s) : AlignmentOk (settle s) :=
  alignmentOk_congr (s := s.setAlu (settled s).1) (SameRouting.of_tables (by simp) (by simp) (by simp)) (by simp [settle])
    (alignmentOk_settled s hl)

/-- In a settled state a pass changes nothing. -/
theorem AlignmentOk.pass_eq {s : State} (i : AlignmentOk s) : settlingPass s s.alu = s.alu := by
  obtain ⟨a, b, d⟩ := i
  have h1 : passAlign s s.alu = s.alu.channels := by
    apply Table.ext_get; intro c
    simp only [passAlign, Table.get_make]
    have := a c
    unfold ChannelDepthOk alignAt at this
    cases hc : s.alu.channels.get c with
    | overdepth => rfl
    | normal x =>
      rw [hc] at this; dsimp only
      cases hs : (channelAt s c).source <;> rw [hs] at this <;> dsimp only at this
      · cases this; rfl
      · rcases this with h | ⟨e, h, hv⟩
        · cases h
        · cases h; simp only [evaluate]
          rw [dif_pos (by have := x.isLt; omega)]
          congr 1; exact Fin.ext hv.symm
      · cases this; rfl
  have h2 : ∀ x, ownNeedOf s s.alu.channels x = s.alu.ownNeeds.get x := by
    intro x
    cases h : ownNeedOf s s.alu.channels x with
    | none =>
      cases k : s.alu.ownNeeds.get x with
      | none => rfl
      | some e =>
        obtain ⟨e', he', _⟩ := ownNeedOf_ge ((b x).1 e k)
        rw [h] at he'; cases he'
    | some e =>
      obtain ⟨e', he', hle⟩ := (b x).2 e (ownNeedOf_mem h)
      obtain ⟨e'', he'', hle''⟩ := ownNeedOf_ge ((b x).1 e' he')
      rw [h] at he''; cases he''
      rw [he', le_antisymm hle hle'']
  have h3 : ∀ x, alignedOf s (s.alu.ownNeeds.get x) x = s.alu.aligned.get x := by
    intro x
    obtain ⟨d1, d2⟩ := d x
    unfold NeedHeard at d1 d2
    unfold alignedOf
    cases hm : maxNeed (s.alu.ownNeeds.get x) (peerNeedOf s x) with
    | none =>
      have := maxNeed_none hm
      rcases d2 with (h | h) | ⟨h, _⟩
      · rw [this.1] at h; cases h
      · obtain ⟨e', he', _⟩ := peerNeedOf_ge h
        rw [this.2] at he'; cases he'
      · rw [h]; rfl
    | some m =>
      show m = _
      apply le_antisymm
      · apply d1
        rcases maxNeed_eq (s.alu.ownNeeds.get x) (peerNeedOf s x) with h | h
        · left; rw [← h, hm]
        · right; apply peerNeedOf_mem; rw [← h, hm]
      · rcases d2 with (h | h) | ⟨h, _⟩
        · obtain ⟨e, he, hle⟩ := le_maxNeed_left (s.alu.aligned.get x) (peerNeedOf s x)
          rw [← h, hm] at he; cases he; exact hle
        · obtain ⟨e', he', hle⟩ := peerNeedOf_ge h
          obtain ⟨e, he, hle'⟩ := le_maxNeed_right (s.alu.ownNeeds.get x) e'
          rw [← he', hm] at he; cases he; exact hle.trans hle'
        · rw [h]; exact Fin.zero_le _
  unfold settlingPass
  simp only [h1, h2, Table.get_make]
  simp only [h3]
  simp

end Sys2Proof.Machine
end

