-- ==== Sys2Proof/Laws/Station.lean ====
section
/-! SUPPORT. What each operation of an arrival and a strobe does to the Station Controller's records and to the Reference
Receiver (R14, R18, R19, R25 to R28, R32, R150). -/

namespace Sys2Proof.Machine

/-- The Station Controller's records but for the flags, and the Reference Receiver, are kept. -/
def KeepsStation (s t : State) : Prop :=
  t.stc.station = s.stc.station ∧ t.stc.nodeId = s.stc.nodeId ∧ t.stc.stripBase = s.stc.stripBase ∧ t.stc.boot = s.stc.boot ∧
  t.stc.resetCause = s.stc.resetCause ∧ t.stc.stop = s.stc.stop ∧ t.stc.listeningCount = s.stc.listeningCount ∧
  t.stc.joiningComplete = s.stc.joiningComplete ∧ t.rfr = s.rfr

/-- Keeping composes. -/
theorem KeepsStation.trans {s t u : State} (h : KeepsStation s t) (k : KeepsStation t u) : KeepsStation s u := by
  unfold KeepsStation at *; simp_all

/-- A station reset was taken (R33). -/
def ResetsStation (s t : State) : Prop :=
  takesFrames s = true ∧ t.stc.station = .booting ∧ t.stc.resetCause = .stationReset ∧ t.stc.stop = s.stc.stop ∧
  t.stc.listeningCount = 0 ∧ t.stc.joiningComplete = false ∧ t.rfr = Rfr.cleared

/-- Every state keeps its own records. -/
theorem KeepsStation.refl (s : State) : KeepsStation s s := by simp [KeepsStation]

/-- Where the station is kept, frames are taken alike. -/
theorem KeepsStation.takesFrames_eq {s t : State} (h : KeepsStation s t) : takesFrames t = takesFrames s := by
  simp [takesFrames, h.1]

/-- A station reset after operations that keep the records is one from the first state. -/
theorem KeepsStation.resets {s t u : State} (h : KeepsStation s t) (k : ResetsStation t u) : ResetsStation s u := by
  refine ⟨?_, k.2.1, k.2.2.1, ?_, k.2.2.2.2.1, k.2.2.2.2.2.1, k.2.2.2.2.2.2⟩
  · rw [← KeepsStation.takesFrames_eq h]; exact k.1
  · rw [k.2.2.2.1]; exact h.2.2.2.2.2.1

/-- A station reset resets the station (R33). -/
theorem stationResetTaken_station (straps : BitVec 4) (s : State) (h : takesFrames s = true) :
    ResetsStation s (stationResetTaken straps s) := by
  simp [ResetsStation, h, stationResetTaken, stationResetBlocks, stationResetStc]

/-- A completed message keeps the records or resets the station (R143, R150). -/
theorem completeMessage_station (lane : LaneIx) (straps : BitVec 4) (h : Word) (ws : List Word) (s : State) :
    KeepsStation s (completeMessage lane straps h ws s) ∨ ResetsStation s (completeMessage lane straps h ws s) := by
  apply completeMessage_cases (P := fun t => KeepsStation s t ∨ ResetsStation s t)
  all_goals intros
  all_goals try (left; simp [KeepsStation]; done)
  unfold takeStationReset
  apply onStation_cases (P := fun t => KeepsStation s t ∨ ResetsStation s t)
  · left; simp [KeepsStation]
  · left; simp [KeepsStation]
  · intro h; right; exact stationResetTaken_station _ _ h

/-- A word of a lane keeps the records or resets the station. -/
theorem takeWord_station (lane : LaneIx) (straps : BitVec 4) (w : Word) (s : State) :
    KeepsStation s (takeWord lane straps w s) ∨ ResetsStation s (takeWord lane straps w s) := by
  apply takeWord_cases (P := fun t => KeepsStation s t ∨ ResetsStation s t)
  · left; exact KeepsStation.refl s
  · intro r; left; simp [KeepsStation]
  · intro h ws; exact completeMessage_station _ _ _ _ _
  · intro h ws
    have e : KeepsStation s (setReassembly s lane .idle) := by simp [KeepsStation]
    rcases completeMessage_station lane straps h ws (setReassembly s lane .idle) with k | k
    · exact .inl (e.trans k)
    · exact .inr (KeepsStation.resets e k)

/-- The slots of an arrival keep the records or reset the station. -/
theorem takeSlots_station (lane : LaneIx) (straps : BitVec 4) (w0 w1 : Word) (s : State) :
    KeepsStation s (takeSlots lane straps w0 w1 s) ∨ ResetsStation s (takeSlots lane straps w0 w1 s) := by
  unfold takeSlots; dsimp only
  rcases takeWord_station lane straps w0 s with k | k
  · split
    · exact .inl k
    · rcases takeWord_station lane straps w1 (takeWord lane straps w0 s) with m | m
      · exact .inl (k.trans m)
      · exact .inr (KeepsStation.resets k m)
  · rw [if_pos k.2.1]; exact .inr k

/-- A peer lane's arrival keeps the records or resets the station. -/
theorem peerArrival_station (lane : LaneIx) (straps : BitVec 4) (v : Option (Table 54 Word)) (s : State) :
    KeepsStation s (peerArrival lane straps v s) ∨ ResetsStation s (peerArrival lane straps v s) := by
  unfold peerArrival; dsimp only
  generalize (presenceStep (laneAt s lane) (arrivalKind v)) = ps
  have e : KeepsStation s (setLane s lane ps.1) := by simp [KeepsStation]
  unfold actOnPresence
  split
  · exact .inl e
  · split
    · unfold takeContents
      rename_i ws
      have e2 : KeepsStation s (addBusWords (fun b => (busWordOf ws b).toInt)
          (settle (evalLinkScopes (storeHeader lane ws (setLane s lane ps.1))))) := by
        simp [KeepsStation]
      rcases takeSlots_station lane straps (ws.get 51) (ws.get 52) _ with k | k
      · exact .inl (e2.trans k)
      · exact .inr (KeepsStation.resets e2 k)
    · exact .inl e
  · left; simp [KeepsStation]
  · left; simp [KeepsStation]
  · left; simp [KeepsStation]

/-- The entry to Silent writes the whole Stop Record (R30, R35). -/
theorem enterSilent_station (cause : StopCause) (s : State) :
    (enterSilent cause s).stc = { s.stc with
      station := .silent, joiningComplete := false
      stop := { cause := cause, position := s.rfr.position, left := stateLeftOf s.stc.station } } ∧
    (enterSilent cause s).rfr = s.rfr := by
  simp [enterSilent, stopIn]

/-- Listening ended in Joining (R25, R26). -/
def EndsInJoining (s t : State) : Prop :=
  s.stc.station = .listening ∧ t.stc = { s.stc with station := .joining, joiningComplete := false } ∧ t.rfr = s.rfr

/-- The station went to Silent from a state it may leave for the cause given (R25, R30, R35). -/
def EndsInSilent (cause : StopCause) (s t : State) : Prop :=
  (if cause = .nodeInUse then s.stc.station = .listening else drivesLane s = true) ∧
  t.stc = { s.stc with
    station := .silent, joiningComplete := false
    stop := { cause := cause, position := s.rfr.position, left := stateLeftOf s.stc.station } } ∧ t.rfr = s.rfr

/-- A clean readback was counted; Joining complete is reported in Joining alone (R19). -/
def CountsClean (s t : State) : Prop :=
  drivesLane s = true ∧ ∃ b, (b = true → s.stc.station = .joining ∨ s.stc.joiningComplete = true) ∧
    t.stc = { s.stc with joiningComplete := b } ∧ t.rfr = s.rfr

/-- An arrival keeps the records, resets the station, ends Listening, finds a lane conflict, or counts a clean readback. -/
theorem laneArrives_station (lane : LaneIx) (rx : Reception) (straps : BitVec 4) (s : State) :
    let t := laneArrives lane rx straps s
    KeepsStation s t ∨ ResetsStation s t ∨ EndsInJoining s t ∨ EndsInSilent .nodeInUse s t ∨
      EndsInSilent .laneConflict s t ∨ CountsClean s t := by
  apply laneArrives_cases (P := fun t => KeepsStation s t ∨ ResetsStation s t ∨ EndsInJoining s t ∨
    EndsInSilent .nodeInUse s t ∨ EndsInSilent .laneConflict s t ∨ CountsClean s t)
  · intro h
    rcases peerArrival_station lane straps (validWords lane rx) s with k | k
    · exact .inl k
    · exact .inr (.inl k)
  · intro h
    unfold watchedArrival; dsimp only
    split
    · next hd =>
      have hl : s.stc.station = .listening := by
        simp [listeningDone] at hd; exact hd.1
      unfold decideListening
      split
      · right; right; left; exact ⟨hl, by simp [enterJoining], by simp⟩
      · right; right; right; left; exact ⟨by simpa using hl, by rw [(enterSilent_station _ _).1]; simp, by simp⟩
      · right; right; right; left; exact ⟨by simpa using hl, by rw [(enterSilent_station _ _).1]; simp, by simp⟩
    · left; simp [KeepsStation]
  · intro h hd d
    unfold readback
    split
    · right; right; right; right; right
      refine ⟨hd, ?_⟩
      unfold cleanReadback; dsimp only; split
      · next hj => exact ⟨_, fun _ => .inl hj, rfl, rfl⟩
      · exact ⟨s.stc.joiningComplete, fun h => .inr h, rfl, rfl⟩
    · unfold mismatchReadback; dsimp only; split
      · right; right; right; right; left
        exact ⟨by simpa using hd, by rw [(enterSilent_station _ _).1]; simp, by simp⟩
      · left; simp [KeepsStation]
  · left; exact KeepsStation.refl s

/-- A strobe writes the Reference Receiver and moves the station by R25, R27 and R32 alone. -/
theorem strobeTaken_station (p : Position) (inputs : Table 48 Sample) (s : State) :
    let t := strobeTaken p inputs s
    t.rfr = strobeRfr s p ∧ t.stc.resetCause = s.stc.resetCause ∧ t.stc.stop = s.stc.stop ∧
    (t.stc.station = match s.stc.station with
      | .isolated => .listening
      | .joining => if s.stc.joiningComplete then .contributing else .joining
      | x => x) ∧
    (t.stc.listeningCount = match s.stc.station with
      | .isolated => 1
      | .listening => nextListening s.stc.listeningCount
      | _ => s.stc.listeningCount) ∧
    t.stc.joiningComplete = (s.stc.joiningComplete && decide (s.stc.station ≠ .joining)) := by
  dsimp only
  have r1 : (takeStrobe p s).rfr = strobeRfr s p := by simp [takeStrobe]
  unfold strobeTaken; dsimp only
  split
  · next h => simp at h; simp [h, r1]
  · next h =>
    simp at h
    refine ⟨?_, ?_, ?_, ?_, ?_, ?_⟩ <;> simp [r1]
    · unfold stationAtStrobe; simp; split <;> (try split) <;> simp_all [enterContributing, leaveIsolated]
    · unfold stationAtStrobe; simp; split <;> (try split) <;> simp_all [enterContributing, leaveIsolated]
    · unfold stationAtStrobe; simp; split <;> (try split) <;> simp_all [enterContributing, leaveIsolated]

/-- An invalid arrival of a peer lane keeps the records. -/
theorem peerArrival_invalid_station (lane : LaneIx) (straps : BitVec 4) (s : State) :
    KeepsStation s (peerArrival lane straps none s) := by
  unfold peerArrival; dsimp only
  generalize (presenceStep (laneAt s lane) (arrivalKind none)) = ps
  unfold actOnPresence
  split <;> simp [KeepsStation]

/-- A lane lost keeps the records, or ends Listening in Joining. -/
theorem laneLost_station (lane : LaneIx) (s : State) (hd : lossDue lane s = true) :
    KeepsStation s (laneArrives lane .undriven 0 s) ∨ EndsInJoining s (laneArrives lane .undriven 0 s) := by
  unfold laneArrives
  split
  · next h =>
    subst h
    simp [lossDue] at hd
    obtain ⟨⟨h1, h2⟩, h3⟩ := hd
    unfold ownArrival; rw [h3]; simp only
    unfold watchedArrival; dsimp only
    split
    · next hl =>
      right
      have hl : s.stc.station = .listening := by simp [listeningDone] at hl; exact hl.1
      have hp : (laneAt (setLane s s.stc.nodeId (presenceStep (laneAt s s.stc.nodeId) (arrivalKind none)).1)
          s.stc.nodeId).presence = .absent := by
        have h1' : (s.lif.lanes.get s.stc.nodeId).presence = .present := h1
        have h2' : ¬ ((s.lif.lanes.get s.stc.nodeId).invalidRun + 1 < 16) := by simp [laneAt] at h2; omega
        simp [laneAt, setLane, presenceStep, h1', arrivalKind, h2']
      refine ⟨hl, ?_, ?_⟩
      · simp only [decideListening, setLane_keeps, validWords]; rw [hp]; simp [enterJoining]
      · simp
    · left; simp [KeepsStation]
  · left; exact peerArrival_invalid_station _ _ _

end Sys2Proof.Machine
end

