-- ==== Sys2Proof/Tests/Slice0.lean ====
section
/-! SUPPORT. Tests: the ill-formed commands, the spec's worked checks and sequences, and for each statement with hypotheses a
concrete state and operands that meet them, clause by clause at the ends of their ranges. -/

-- Each evaluation by the kernel waits for the declarations before it, so the theorems of this file are elaborated in turn.
set_option Elab.async false

namespace Sys2Proof.Tests

open Sys2Proof.Machine

/-! ### Ill-formed commands (R142) -/

theorem test_bind_of_zero_is_ill_formed : wellFormed (.bind 3 0) = false := by decide
theorem test_bind_of_five_is_ill_formed : wellFormed (.bind 3 5) = false := by decide
theorem test_bind_of_four_is_well_formed : wellFormed (.bind 3 1) = true ∧ wellFormed (.bind 3 4) = true := by decide
theorem test_station_reset_to_30_is_ill_formed :
    wellFormed (.stationReset 30 0) = false ∧ wellFormed (.stationReset 31 0) = true := by decide
theorem test_clear_conditions_to_30_is_ill_formed :
    wellFormed (.clearConditions 30 255) = false ∧ wellFormed (.clearConditions 15 255) = true := by decide
theorem test_roll_call_to_30_is_ill_formed : wellFormed (.rollCall 30) = false ∧ wellFormed (.rollCall 0) = true := by decide

/-! ### States the tests start from -/

/-- An engine at node 0 in a station state, at position 100, with a frame in progress and the reference Running. -/
def board (st : StationState) : State :=
  { State.reset with
    stc := { Stc.default with station := st }
    rfr := { position := 100, known := true, reference := .running, timer := .running }
    lif := { Lif.cleared with
      receiving := true
      ownMode := if st = .joining ∨ st = .contributing then .own else .watched } }

/-- An idle lane of a node in a station state: header, zero bus words, idle slots (R8). -/
def idleLane (node : LaneIx) (code : Nat) : Table 54 Word :=
  composeLane (composeMark node code 0) (composeScope (Table.fill 8 false) 0) (composeTile (Table.fill 48 none) 0)
    (Table.fill 48 0) 0 0

/-- Lane 3's record in a presence state with its counts. -/
def withRecord (p : Presence) (valid invalid : Nat) (s : State) : State :=
  setLane s 3 { LaneRecord.cleared with presence := p, validRun := valid, invalidRun := invalid }

/-- The engine drives a lane and hears it back. -/
def driving (st : StationState) (mismatch cleanRun : Nat) : State :=
  (board st).setLif { (board st).lif with driven := some (idleLane 0 1), mismatch := mismatch, cleanRun := cleanRun }

/-- The worked boot record of 02 (node 5, forced base 96). -/
def workedRecord (mask : Byte) : Table 22 Byte :=
  ⟨[0x4D, 0x01, 0x00, 0x60, mask, 0, 1, 2, 3, 4, 5, 6, 7, 255, 255, 255, 255, 255, 255, 255, 255, 0x3E], rfl⟩

/-! ### The Stage Link -/

/-- 01, worked check: a Joining lane from node 2. -/
theorem test_joining_lane_of_node_2 :
    (idleLane 2 1).get 0 = 0x5C240000 ∧ (idleLane 2 1).get 1 = 0 ∧ (idleLane 2 1).get 2 = 0x3FFFFFFF ∧
      (idleLane 2 1).get 53 = 0x000063DC := by decide +kernel

/-- 01, R5: the lane is valid as lane 2 and as no other, and not with a bus word changed. -/
theorem test_joining_lane_validity :
    validWords 2 (.words (idleLane 2 1)) = some (idleLane 2 1) ∧ validWords 3 (.words (idleLane 2 1)) = none ∧
      validWords 2 (.words ((idleLane 2 1).put 7 1)) = none := by decide +kernel

/-- 01, worked sequence of peer 9: 1..16 valid arrivals, then a Contributing one. -/
theorem test_peer_joins :
    presenceStep LaneRecord.cleared .restarted = ({ LaneRecord.cleared with presence := .joining, validRun := 1 }, .nothing) ∧
      presenceStep { LaneRecord.cleared with presence := .joining, validRun := 16 } .restarted =
        ({ LaneRecord.cleared with presence := .joining, validRun := 16 }, .nothing) ∧
      presenceStep { LaneRecord.cleared with presence := .joining, validRun := 16 } .contributing =
        ({ LaneRecord.cleared with presence := .present, validRun := 16 }, .contentsTaken) := by decide +kernel

/-! ### Station Life -/

/-- 02, worked record: it passes and forces base 96; with byte 4 changed it fails. -/
theorem test_worked_boot_record :
    recordPasses (workedRecord 0) = true ∧ recordPasses (workedRecord 0x80) = false ∧
      stripBaseOf (recordSettings (workedRecord 0)) 5 = 96 ∧ stripBaseOf failedSettings 5 = 240 ∧
      (recordSettings (workedRecord 0)).slots.get 7 = some 7 ∧ (recordSettings (workedRecord 0)).slots.get 8 = none := by
  decide +kernel

/-- R28: the four kinds of strobe from position 100. -/
theorem test_strobe_kinds :
    classify (board .contributing).rfr 101 = .advance ∧ classify (board .contributing).rfr 100 = .park ∧
      classify (board .contributing).rfr 99 = .locate ∧ classify Rfr.cleared 1 = .silentLocate := by decide +kernel

/-- R28: a position does not wrap, so 0 after 0xFFFFFFFF is a Locate. -/
theorem test_position_does_not_wrap :
    classify { position := 0xFFFFFFFF, known := true, reference := .running, timer := .running } 0 = .locate := by decide +kernel

/-! ### Channel Strips, gain, ramps -/

/-- R46: the worked word 0x050905FF keeps 5 and 9. -/
theorem test_groups_word : groupsOf 0x050905FF = [5, 9] ∧ groupsWord (groupsOf 0x050905FF) = 0x0509FFFF := by decide +kernel

/-- 04, worked conversions. -/
theorem test_worked_conversions :
    [96, 0, -36, -200, -211, -400, -457, -478, -479, -480].map conv =
      [268435456, 16777216, 5931648, 52016, 37859, 161, 31, 17, 16, 0] := by decide +kernel

/-- 04, worked sequence: rounding in a short glide, 16 to 31. -/
theorem test_short_glide :
    [1, 4, 8, 12, 16].map (glideValue 16 31) = [17, 20, 24, 27, 31] ∧ glideValue 31 16 8 = 23 := by decide +kernel

/-- 04, worked sequence: one contribution. -/
theorem test_worked_contribution :
    contribution false 3000000 5931648 32 = 1060661 ∧ contribution true 3000000 5931648 32 = -1060661 ∧
      contribution false 3000000 5931648 16 = 530331 ∧ contribution true 3000000 5931648 16 = -530331 ∧
      contribution false 1 268435456 1 = 1 ∧ contribution true 1 268435456 1 = -1 := by decide +kernel

/-- 07, R119: an item posted at K = 20 in In turns the ramp Out at its K; the next step forms 19. -/
theorem test_ramp_turns :
    turnRamp { state := .rampIn, k := 20 } = { state := .rampOut, k := 20 } ∧
      stepK { state := .rampOut, k := 20 } = { state := .rampOut, k := 19 } ∧
      stepK { state := .rampIn, k := 32 } = { state := .steady, k := 32 } := by decide +kernel

/-- 08, worked close at node 0: slot 3 at K = 15 reads −3,000,000 at delay 11. -/
theorem test_worked_close :
    (slotOutput ((Table.fill 48 (Table.fill 15 0)).put 40 ((Table.fill 15 0).put 11 (BitVec.ofInt 24 (-3000000))))
      { bus := some 40, delay := 11, ramp := { state := .rampOut, k := 15 }, pending := none }).toInt = -1406250 ∧
      (saturate24 8460661).toInt = 8388607 ∧ exceeds24 8460661 = true ∧ exceeds24 3560661 = false := by decide +kernel

/-! ### Control Messages, scheduler, meters -/

/-- 09, worked stream: the head words 0x0BF40000, 0x48180000, 0x1BFC0000. -/
theorem test_worked_heads :
    (headKind 0x0BF40000, headLength 0x0BF40000, headDest 0x0BF40000, headStamped 0x0BF40000) = (1, 3, 30, true) ∧
      (headKind 0x48180000, headLength 0x48180000, headDest 0x48180000, headStamped 0x48180000) = (9, 0, 3, false) ∧
      (headKind 0x1BFC0000, headLength 0x1BFC0000, headDest 0x1BFC0000, headStamped 0x1BFC0000) = (3, 3, 31, true) := by
  decide +kernel

/-- 11, worked table of peaks. -/
theorem test_worked_peaks :
    [0, 1, 8, 3000000, 4194304, 8388607, 8388608, 134217728].map peakSteps = [-480, -552, -480, -36, -24, -1, 0, 96] ∧
      peakClips 8388607 = false ∧ peakClips 8388608 = true := by decide +kernel

/-- The strips of a table's entries, 0 for a Free one. -/
def stripsOf (m : Mtu) : List Nat :=
  (List.finRange 8).map fun e => match m.entries.get e with
    | some w => w.strip.toNat
    | none => 0

/-- One step of the worked pointer sequence, at strip base 192. -/
def watchOf (n : Nat) (s : State) : State := watchStrip (BitVec.ofNat 16 n) ⟨(n - 192) % 48, Nat.mod_lt _ (by decide)⟩ s

/-- 11, worked sequence: the replacement pointer, steps 1 to 11. -/
theorem test_replacement_pointer :
    let s1 := [200, 201, 202, 203, 204, 205, 206, 207].foldl (fun s n => watchOf n s) State.reset
    let s3 := watchOf 210 (watchOf 200 s1)
    let s8 := watchOf 204 (watchOf 210 (watchOf 212 (watchOf 211 (unwatchStrip 203 s3))))
    let s11 := watchOf 214 (watchOf 213 (unwatchStrip 206 s8))
    (stripsOf s3.mtu, s3.mtu.pointer) = ([200, 210, 202, 203, 204, 205, 206, 207], 2) ∧
      (stripsOf s8.mtu, s8.mtu.pointer) = ([200, 210, 211, 212, 204, 205, 206, 207], 5) ∧
      (stripsOf s11.mtu, s11.mtu.pointer) = ([200, 210, 211, 212, 204, 213, 214, 207], 7) := by decide +kernel

/-! ### Witnesses: the queue, resets, the boot record -/

theorem witness_StepRunsFrontCommand :
    (State.reset.setPending [.loss, .rollCall 0]).pending = .loss :: [.rollCall 0] ∧
      ((board .contributing).setPending [.rollCall 0]).pending = .rollCall 0 :: [] := ⟨rfl, rfl⟩

theorem witness_CommandsCompleteAndQueueIdles : State.reset.pending = [] := rfl

/-- An engine whose slot 3 is assigned, its ramp Steady. -/
def withSlot (k : Nat) (s : State) : State :=
  { s with mxd := { s.mxd with
      slots := s.mxd.slots.put 3 { bus := some 40, delay := 11, ramp := { state := .steady, k := k }, pending := none } } }

theorem witness_PinResetKeepsStopRecord : ((withSlot 32 (board .contributing)).mxd.slots.get 3).bus ≠ none := by
  decide +kernel

theorem witness_AssertedResetPinSilencesEngine : ((board .contributing).setResetPin true).resetPin = true := rfl

theorem witness_StationResetKeepsSettings :
    (∀ st ∈ [StationState.listening, .joining, .contributing, .silent], (board st).resetPin = false ∧
      ((board st).stc.station = .listening ∨ (board st).stc.station = .joining ∨ (board st).stc.station = .contributing ∨
        (board st).stc.station = .silent) ∧
      ∀ dest ∈ [0#5, 31#5], dest.toNat = (board st).stc.nodeId.val ∨ dest.toNat = 31) ∧
    alignAt (setAlign (board .silent) 0 .overdepth) 0 = .overdepth := by decide +kernel

theorem witness_ResetCauseNamesLastReset :
    (∃ t, exec (.powerOn 15) (board .silent) = .next t) ∧ (∃ t, exec (.pinReset 0) (board .isolated) = .next t) ∧
    (∃ t, exec (.stationReset 31 2) (board .silent) = .next t ∧ t.stc.station = .booting) ∧
    (∃ t, exec (.stationReset 7 2) (board .silent) = .next t ∧ t.stc.station = .silent) ∧
    (∃ t, exec (.laneArrival 15 .undriven 0) (board .silent) = .next t) ∧
    (∃ t, exec .loss (board .joining) = .next t) :=
  ⟨⟨_, rfl⟩, ⟨_, rfl⟩, ⟨_, rfl, rfl⟩, ⟨_, rfl, rfl⟩, ⟨_, rfl⟩, ⟨_, rfl⟩⟩

theorem witness_StopRecordWrittenAtStops :
    (∀ st ∈ [StationState.listening, .joining, .contributing], st ≠ .isolated ∧
      ∃ t, exec .loss (board st) = .next t ∧ t.stc.station = .isolated) ∧
    (∃ t, exec .endOfListening (setLane ((board .listening).setStc { Stc.default with station := .listening, listeningCount := 128 })
        0 { LaneRecord.cleared with presence := .joining, validRun := 1 }) = .next t ∧ t.stc.station = .silent) ∧
    (∀ st ∈ [StationState.joining, .contributing],
      ∃ t, exec .laneConflict (driving st 3 0) = .next t ∧ t.stc.station = .silent) ∧
    (∃ t, exec (.powerOn 0) (board .silent) = .next t) ∧
    ∃ t, exec (.rollCall 0) (board .silent) = .next t ∧ t.stc.station = (board .silent).stc.station := by
  refine ⟨fun st h => ?_, ⟨_, rfl, rfl⟩, fun st h => ?_, ⟨_, rfl⟩, ⟨_, rfl, rfl⟩⟩
  · fin_cases h <;> exact ⟨by decide, _, rfl, rfl⟩
  · fin_cases h <;> exact ⟨_, rfl, rfl⟩

theorem witness_BootReadEndsInListening :
    State.reset.stc.station = .booting ∧
    (((workedRecord 0).get 0).toNat = 0x4D ∧ ((workedRecord 0).cells.map BitVec.toNat).sum % 256 = 0) ∧
    ¬ (((workedRecord 1).get 0).toNat = 0x4D ∧ ((workedRecord 1).cells.map BitVec.toNat).sum % 256 = 0) ∧
    (∃ t, exec (.bootReadComplete (workedRecord 0)) State.reset = .next t ∧ t.stc.boot.slots.get 0 = some 0 ∧
      t.stc.boot.slots.get 7 = some 7 ∧ t.stc.boot.slots.get 15 = none) :=
  ⟨rfl, by decide +kernel, by decide +kernel, _, rfl, by decide +kernel⟩

/-! ### Witnesses: the reference line and the station -/

theorem witness_StrobeTakesPosition :
    ((board .booting).resetPin = false ∧ (board .booting).stc.station = .booting ∧
      classify (board .booting).rfr 101 = .advance ∧ classify (board .booting).rfr 100 = .park ∧
      classify (board .booting).rfr 99 = .locate) ∧
    (∀ st ∈ [StationState.booting, .listening, .joining, .contributing, .silent, .isolated], (board st).resetPin = false) ∧
    ∀ n ∈ [0, 127], ((board .listening).setStc { Stc.default with station := .listening, listeningCount := n }).stc.station =
      .listening ∧ n < 128 := by decide +kernel

theorem witness_LossIsolatesStation :
    (∀ st ∈ [StationState.listening, .joining, .contributing], takesChanges (board st) = true) ∧
    takesChanges (board .silent) = false ∧
    ∀ st ∈ [StationState.listening, .joining, .contributing, .silent],
      (board st).rfr.timer = .running ∧ (board st).rfr.reference = .running := by decide +kernel

theorem witness_StationMovesAreListed : ∃ t, exec .loss (board .contributing) = .next t ∧ t.stc.station = .isolated :=
  ⟨_, rfl, rfl⟩

/-- A Contributing engine with a Roll Call waiting: a step queues an Announce. -/
def turning : State := (board .contributing).setPending [.rollCall 0]

theorem turning_steps : step turning = .next ((queueAnnounce turning).setPending []) := rfl

theorem turning_lane (n : LaneIx) : laneAt turning n = LaneRecord.cleared := Table.get_fill _ _
theorem turning_collection (n : LaneIx) : collectionAt turning n = BindCollection.cleared := Table.get_fill _ _
theorem turning_channel (c : Chan) : channelAt turning c = ChannelRecord.default c := Table.get_make _ _
theorem turning_align (c : Chan) : alignAt turning c = .normal 0 := Table.get_fill _ _
theorem turning_path (c : Chan) : pathAt turning c = ChannelPath.default c := Table.get_make _ _
theorem turning_slot (o : SlotIx) : turning.mxd.slots.get o =
    { bus := none, delay := 0, ramp := { state := .held, k := 0 }, pending := none } := Table.get_fill _ _
theorem turning_group (g : GroupIx) : turning.gsu.groups.get g = { master := 0, mute := false, solo := false } :=
  Table.get_fill _ _
theorem turning_ownNeed (b : Bus) : turning.alu.ownNeeds.get b = none := Table.get_fill _ _
theorem turning_aligned (b : Bus) : turning.alu.aligned.get b = 0 := Table.get_fill _ _
theorem turning_entry (e : EntryIx) : turning.mtu.entries.get e = none := Table.get_fill _ _

theorem turning_not_soloed (c : Chan) : ¬ Soloed turning c := by
  rintro (h | ⟨g, hg, _⟩)
  · rw [turning_channel] at h; cases h
  · rw [turning_channel] at hg; cases hg

theorem turning_sends_nowhere (b : Bus) (d : Depth) : ¬ SendsAtDepth turning b d := by
  rintro ⟨c, k, _, h⟩
  simp [turning_channel, ChannelRecord.default] at h

theorem turning_need (b : Bus) (d : Depth) : ¬ NeedHeard turning b d := by
  rintro (h | ⟨n, _, h, _⟩)
  · rw [turning_ownNeed] at h; cases h
  · rw [turning_lane] at h; cases h

theorem witness_StepKeepsReferenceOk : ReferenceOk turning ∧ ∃ t, step turning = .next t :=
  ⟨⟨by decide, rfl, rfl⟩, _, rfl⟩

theorem witness_StepKeepsLaneTableOk : LaneTableOk turning ∧ ∃ t, step turning = .next t := by
  refine ⟨⟨fun n => ?_, fun n _ => ?_, rfl, by decide, by decide, by decide⟩, _, rfl⟩
  · rw [turning_lane]; exact ⟨rfl, rfl⟩
  · rw [turning_lane]; exact ⟨rfl, rfl⟩

theorem witness_StepKeepsSchedulerOk : SchedulerOk turning ∧ ∃ t, step turning = .next t := by
  refine ⟨⟨List.Pairwise.nil, by decide, fun n => ?_⟩, _, rfl⟩
  rw [turning_collection]; decide

theorem witness_StepKeepsSoloOk : SoloOk turning ∧ ∃ t, step turning = .next t := by
  have hs : ∀ sc, turning.gsu.ownScopes.get sc = false := fun sc => Table.get_fill _ _
  have hl : ∀ sc, turning.gsu.linkScopes.get sc = false := fun sc => Table.get_fill _ _
  have hg : ∀ c, turning.gsu.gated.get c = false := fun c => Table.get_fill _ _
  refine ⟨⟨fun sc => ?_, fun sc => ?_, fun c => ?_⟩, _, rfl⟩
  · simp [hs, turning_not_soloed]
  · simp [hs, hl, turning_lane, LaneRecord.cleared]
  · simp [hl, hg]

theorem turning_alignmentOk : AlignmentOk turning :=
  ⟨fun c => by simp [ChannelDepthOk, turning_channel, turning_align, ChannelRecord.default],
    fun b => ⟨fun d h => (by rw [turning_ownNeed] at h; cases h), fun d h => absurd h (turning_sends_nowhere b d)⟩,
    fun b => ⟨fun d h => absurd h (turning_need b d), .inr ⟨turning_aligned b, turning_need b⟩⟩⟩

theorem witness_StepKeepsAlignmentOk : AlignmentOk turning ∧ ∃ t, step turning = .next t :=
  ⟨turning_alignmentOk, _, rfl⟩

theorem turning_delaysOk : DelaysOk turning := by
  refine ⟨fun c k _ => ?_, fun c k b d h _ => ?_, fun o b h => ?_⟩
  · simp [turning_path, ChannelPath.default, effectiveDelay, PendingSet.empty]
  · simp [turning_channel, ChannelRecord.default] at h
  · simp [turning_slot] at h

theorem witness_StepKeepsDelaysAtTargets : AlignmentOk turning ∧ DelaysOk turning ∧ ∃ t, step turning = .next t :=
  ⟨turning_alignmentOk, turning_delaysOk, _, rfl⟩

theorem witness_StepKeepsRampsOk : RampsOk turning ∧ ∃ t, step turning = .next t := by
  refine ⟨⟨fun c => ?_, fun o => ?_⟩, _, rfl⟩
  · simp [turning_path, ChannelPath.default, rampOk, quiet]
  · simp [turning_slot, rampOk, quiet]

theorem witness_StepKeepsTransmitOk : TransmitOk turning ∧ ∃ t, step turning = .next t :=
  ⟨⟨by decide, by decide, by decide, fun p h => by cases h⟩, _, rfl⟩

theorem witness_StepKeepsMetersOk : MetersOk turning ∧ ∃ t, step turning = .next t := by
  refine ⟨⟨fun e w h => ?_, fun e f w x h _ => ?_, fun e w h => ?_, (by decide), by decide⟩, _, rfl⟩
  all_goals rw [turning_entry] at h; cases h

/-- An Isolated engine with channel 0 latched. -/
def isolated : State := setAlign (board .isolated) 0 .overdepth

theorem witness_StrobeEndsIsolated : isolated.resetPin = false ∧ isolated.stc.station = .isolated ∧
    alignAt isolated 0 = .overdepth ∧ isolated.mxd.totals = none ∧ isolated.stc.conditions.getLsbD 2 = false ∧
    isolated.stc.boot.noticeMask.getLsbD 2 = false ∧ isolated.stc.conditions.getLsbD 0 = false ∧
    isolated.stc.boot.noticeMask.getLsbD 0 = false := by decide +kernel

/-- A Joining engine that has reported Joining complete. -/
def joined : State := (board .joining).setStc { Stc.default with station := .joining, joiningComplete := true }

theorem witness_StrobeEntersContributing : joined.resetPin = false ∧ joined.stc.station = .joining ∧
    joined.stc.joiningComplete = true ∧ joined.mse.inProgress = none := by decide +kernel

/-! ### Witnesses: the Stage Link -/

theorem witness_LaneValidityIsR5 :
    (∀ code ∈ [1, 2], validWords 15 (.words (idleLane 15 code)) = some (idleLane 15 code)) ∧
    (∀ code ∈ [0, 3], validWords 15 (.words (idleLane 15 code)) = none) ∧ validWords 15 .undriven = none := by decide +kernel

/-- A Contributing engine whose meter window stands at a count. -/
def counting (n : Nat) (s : State) : State := s.setMtu { s.mtu with windowCount := n }

theorem witness_ComposedLaneReadsBack :
    (∀ code ∈ [1, 2], code = 1 ∨ code = 2) ∧
    (((0 : Bus).val / 6 = 0 ∧ field 0x3FFFFFFF (25 - 5 * ((0 : Bus).val % 6)) 5 = 31) ∧
      ((47 : Bus).val / 6 = 7 ∧ field 0x0000000F (25 - 5 * ((47 : Bus).val % 6)) 5 = 15 ∧
        field 0x0000001E (25 - 5 * ((47 : Bus).val % 6)) 5 = 30 ∧ field 0x0000000E (25 - 5 * ((47 : Bus).val % 6)) 5 = 14)) ∧
    (∀ st ∈ [StationState.booting, .listening, .silent, .isolated], (board st).resetPin = false ∧
      (board st).stc.station ≠ .joining ∧ (board st).stc.station ≠ .contributing) ∧
    ((board .joining).resetPin = false ∧ (board .joining).stc.station = .joining ∧ (board .joining).stc.joiningComplete = false) ∧
    (joined.resetPin = false ∧ joined.stc.station = .joining ∧ joined.stc.joiningComplete = true) ∧
    ∀ n ∈ [0, 2046], (counting n (board .contributing)).resetPin = false ∧
      (counting n (board .contributing)).stc.station = .contributing ∧
      (counting n (board .contributing)).mtu.windowCount + 1 ≠ 2048 := by decide +kernel

/-- The hypotheses that every arrival of lane 3 shares. -/
def hears (s : State) : Bool :=
  !s.resetPin && takesFrames s && s.lif.receiving && decide ((3 : LaneIx) ≠ s.stc.nodeId)

theorem witness_ArrivalBeforePresent :
    (∀ st ∈ [StationState.listening, .joining, .contributing, .silent],
      hears (withRecord .absent 0 0 (board st)) = true ∧
        (laneAt (withRecord .absent 0 0 (board st)) 3).presence = .absent) ∧
    (∀ n ∈ [1, 15, 16], hears (withRecord .joining n 0 (board .contributing)) = true ∧
      (laneAt (withRecord .joining n 0 (board .contributing)) 3).presence = .joining ∧
      (laneAt (withRecord .joining n 0 (board .contributing)) 3).validRun = n ∧ n ≤ 16) ∧
    (∀ code ∈ [1, 2], validWords 3 (.words (idleLane 3 code)) = some (idleLane 3 code) ∧
      markState ((idleLane 3 code).get 0) = code) ∧
    validWords 3 .collided = none ∧
    ((board .listening).lif.ownMode = .watched ∧
      ¬ ((board .listening).stc.station = .listening ∧ (board .listening).stc.listeningCount = 128)) ∧
    ((board .silent).lif.ownMode = .watched ∧
      ¬ ((board .silent).stc.station = .listening ∧ (board .silent).stc.listeningCount = 128)) := by decide +kernel

/-- The own-index record of node 0 is Present with a count of invalid arrivals. -/
def ownPresent (invalid : Nat) (s : State) : State :=
  setLane s 0 { LaneRecord.cleared with presence := .present, validRun := 16, invalidRun := invalid }

theorem witness_ArrivalWhilePresent :
    (∀ n ∈ [0, 14, 15], hears (withRecord .present 16 n (board .contributing)) = true ∧
      (laneAt (withRecord .present 16 n (board .contributing)) 3).presence = .present ∧
      (laneAt (withRecord .present 16 n (board .contributing)) 3).invalidRun = n) ∧
    (∀ code ∈ [1, 2], validWords 3 (.words (idleLane 3 code)) = some (idleLane 3 code) ∧
      markState ((idleLane 3 code).get 0) = code) ∧
    validWords 3 .undriven = none ∧
    ∀ st ∈ [StationState.listening, .silent], ∀ n ∈ [0, 14, 15],
      (ownPresent n (board st)).resetPin = false ∧ takesFrames (ownPresent n (board st)) = true ∧
      (ownPresent n (board st)).lif.receiving = true ∧ (ownPresent n (board st)).lif.ownMode = .watched ∧
      ¬ ((ownPresent n (board st)).stc.station = .listening ∧ (ownPresent n (board st)).stc.listeningCount = 128) ∧
      (laneAt (ownPresent n (board st)) (ownPresent n (board st)).stc.nodeId).presence = .present ∧
      (laneAt (ownPresent n (board st)) (ownPresent n (board st)).stc.nodeId).invalidRun = n := by decide +kernel

theorem witness_LeavingPresentDropsLane :
    (5 : LaneIx) ≠ 3 ∧ alignAt (setAlign (withRecord .present 16 0 (board .contributing)) 0 .overdepth) 0 = .overdepth := by
  decide +kernel

/-- The same engine with every total open at 7. -/
def withTotals (s : State) : State := openTotals (fun _ => 7) s

/-- A Contributing lane of node 3 that carries two slot words. -/
def talkingLane (m0 m1 : Word) : Table 54 Word :=
  composeLane (composeMark 3 2 0) (composeScope (Table.fill 8 false) 0) (composeTile (Table.fill 48 none) 0) (Table.fill 48 0) m0 m1

/-- R136, R150: slot 0 is taken before slot 1, and slot 1 is not read after a Station Reset: of two Roll Calls one waits, and a
Station Reset leaves the reassembly Idle though slot 1 holds a Strip Set's head. -/
theorem test_slot_words_are_taken_in_order :
    (match exec (.laneArrival 3 (.words (talkingLane (headWord 9 0 31) (headWord 1 2 31))) 0)
        (withRecord .present 16 0 (board .contributing)) with
      | .next t => t.mse.announceWaiting && decide (reassemblyAt t 3 = .collecting .keep (headWord 1 2 31) 2 [])
      | _ => false) = true ∧
    (match exec (.laneArrival 3 (.words (talkingLane (headWord 10 0 31) (headWord 1 2 31))) 0)
        (withRecord .present 16 0 (board .contributing)) with
      | .next t => decide (t.stc.station = .booting) && decide (reassemblyAt t 3 = .idle)
      | _ => false) = true := by decide +kernel

theorem witness_TakenArrivalStoresContents :
    (validWords 3 (.words (talkingLane (headWord 10 0 31) 0x0BF40000)) = some (talkingLane (headWord 10 0 31) 0x0BF40000) ∧
      markState ((talkingLane (headWord 10 0 31) 0x0BF40000).get 0) = 2) ∧
    (∀ s ∈ [withRecord .present 16 0 (board .silent), withRecord .present 16 15 (withTotals (board .contributing))],
      hears s = true ∧ (laneAt s 3).presence = .present ∧ reassemblyAt s 3 = .idle) ∧
    (validWords 3 (.words (idleLane 3 2)) = some (idleLane 3 2) ∧ markState ((idleLane 3 2).get 0) = 2 ∧
      (idleLane 3 2).get 51 = 0 ∧ (idleLane 3 2).get 52 = 0) ∧
    (board .silent).mxd.totals = none ∧ (withTotals (board .contributing)).mxd.totals = some (Table.make fun _ => 7) := by
  decide +kernel

theorem witness_OwnLaneReadback :
    ((board .booting).stc.station = .booting ∧ (board .isolated).stc.station = .isolated ∧ State.reset.lif.receiving = false) ∧
    (((board .silent).setLif { (board .silent).lif with ownMode := .own }).stc.station = .silent ∧
      ((board .silent).setLif { (board .silent).lif with ownMode := .own }).lif.ownMode = .own) ∧
    (∀ st ∈ [StationState.joining, .contributing], ∀ m ∈ [0, 2, 3], ∀ n ∈ [0, 62, 63, 64],
      (driving st m n).resetPin = false ∧ (driving st m n).lif.receiving = true ∧ (driving st m n).lif.ownMode = .own ∧
        ((driving st m n).stc.station = .joining ∨ (driving st m n).stc.station = .contributing) ∧
        (driving st m n).lif.driven = some (idleLane 0 1) ∧ (driving st m n).lif.mismatch = m ∧ m ≤ 3 ∧
        (driving st m n).lif.cleanRun = n ∧ n ≤ 64) ∧
    validWords 0 (.words (idleLane 0 1)) = some (idleLane 0 1) ∧ validWords 0 (.words (idleLane 0 2)) ≠ some (idleLane 0 1) ∧
    validWords 0 .collided ≠ some (idleLane 0 1) := by decide +kernel

/-- A Listening engine at a count. -/
def listeningAt (n : Nat) : State := (board .listening).setStc { Stc.default with station := .listening, listeningCount := n }

theorem witness_LaneEventsTakenAlone :
    (hears (withRecord .present 16 15 (board .contributing)) = true ∧
      (laneAt (withRecord .present 16 15 (board .contributing)) 3).presence = .present ∧
      (laneAt (withRecord .present 16 15 (board .contributing)) 3).invalidRun = 15) ∧
    (∀ st ∈ [StationState.joining, .contributing], (driving st 3 0).resetPin = false ∧ (driving st 3 0).lif.mismatch = 3 ∧
      ((driving st 3 0).stc.station = .joining ∨ (driving st 3 0).stc.station = .contributing)) ∧
    ((driving .joining 0 63).resetPin = false ∧ (driving .joining 0 63).stc.station = .joining ∧
      (driving .joining 0 63).lif.cleanRun = 63) ∧
    ((listeningAt 128).resetPin = false ∧ (listeningAt 128).stc.station = .listening ∧
      (listeningAt 128).stc.listeningCount = 128 ∧ (laneAt (listeningAt 128) (listeningAt 128).stc.nodeId).presence = .absent) ∧
    ((laneAt (setLane (listeningAt 128) 0 { LaneRecord.cleared with presence := .joining, validRun := 1 }) 0).presence ≠
      .absent) ∧
    (∀ s ∈ [listeningAt 128, ownPresent 14 (listeningAt 128), ownPresent 15 (listeningAt 128)],
      s.resetPin = false ∧ s.lif.receiving = true ∧ s.stc.station = .listening ∧ s.stc.listeningCount = 128 ∧
      s.lif.ownMode = .watched ∧ s.stc.nodeId = 0) ∧
    (validWords 0 .undriven = none ∧ (laneAt (listeningAt 128) 0).presence ≠ .present ∧
      15 ≤ (laneAt (ownPresent 15 (listeningAt 128)) 0).invalidRun) ∧
    (validWords 0 (.words (idleLane 0 1)) ≠ none ∧ (laneAt (ownPresent 14 (listeningAt 128)) 0).presence = .present ∧
      ¬ 15 ≤ (laneAt (ownPresent 14 (listeningAt 128)) 0).invalidRun) := by decide +kernel

theorem witness_PortLockIsFollowed :
    ((47 : InputIx).val / 8 = (5 : PortIx).val ∧ (0 : InputIx).val / 8 = (0 : PortIx).val) ∧
      State.reset.mxd.locks.get 5 = false ∧ (setLock 5 true State.reset).mxd.locks.get 5 = true := by decide +kernel

/-! ### Witnesses: bound sets and stamped changes -/

/-- An engine with a collection on lane 12. -/
def collecting (remaining held : Nat) (stamp : SetStamp) (s : State) : State :=
  setCollection s 12 { remaining := remaining, held := List.replicate held (.group 0 0), stamp := stamp }

/-- An engine with entries in its queue at target 200, below 300. -/
def queued (n : Nat) (s : State) : State :=
  s.setChs { s.chs with queue := List.replicate n { target := 200, change := { change := .group 0 0, lane := 13 } } }

theorem witness_UnboundChangeIsPlaced :
    (∀ st ∈ [StationState.listening, .joining, .contributing], ∀ n ∈ [0, 63, 64],
      (queued n (board st)).resetPin = false ∧ takesChanges (queued n (board st)) = true ∧
      (collectionAt (queued n (board st)) 12).remaining = 0) ∧
    ((0#16).toNat = (board .contributing).stc.stripBase + (0 : Chan).val ∧
      (47#16).toNat = (board .contributing).stc.stripBase + (47 : Chan).val ∧
      (board .contributing).stc.stripBase + 48 ≤ (48#16).toNat) ∧
    (191#16).toNat < ((board .contributing).setStc { Stc.default with stripBase := 192 }).stc.stripBase := by decide +kernel

theorem witness_BindOpensOrRestartsSet :
    (∀ s ∈ [board .listening, collecting 1 16 .absent (board .contributing)],
      s.resetPin = false ∧ takesChanges s = true) ∧
    (1 ≤ (1#32).toNat ∧ (1#32).toNat ≤ 4) ∧ 1 ≤ (4#32).toNat ∧ (4#32).toNat ≤ 4 := by decide +kernel

/-- The STRIP_SETs of the first and the last strip in range, and a GROUP_LEVEL, bring changes this engine acts on. -/
theorem delivered (s : State) (stamp : Option Position) (h : s.stc.stripBase = 0) :
    Delivers s 12 stamp (.stripSet 12 0 2 0 stamp) (.strip 0 2 0) ∧
    Delivers s 12 stamp (.stripSet 12 47 2 0 stamp) (.strip 47 2 0) ∧
    Delivers s 12 stamp (.groupLevel 12 0x001F0000 0 stamp) (.group 0x001F0000 0) :=
  ⟨.inl ⟨0, 2, 0, 0, by rw [h]; rfl, rfl, rfl⟩, .inl ⟨47, 2, 0, 47, by rw [h]; rfl, rfl, rfl⟩, .inr ⟨_, _, rfl, rfl⟩⟩

theorem witness_SetCountsMembers :
    (∀ held ∈ [0, 15, 16], ∀ remaining ∈ [1, 2, 4], ∀ stamp ∈ [SetStamp.absent, .stamped 200, .undetermined],
      (collecting remaining held stamp (board .joining)).resetPin = false ∧
      takesChanges (collecting remaining held stamp (board .joining)) = true ∧
      (collectionAt (collecting remaining held stamp (board .joining)) 12).remaining = remaining ∧
      (collectionAt (collecting remaining held stamp (board .joining)) 12).held.length = held ∧
      (collectionAt (collecting remaining held stamp (board .joining)) 12).stamp = stamp ∧
      (collecting remaining held stamp (board .joining)).stc.stripBase = 0) ∧
    (board .joining).stc.stripBase + 48 ≤ (48#16).toNat := by
  decide +kernel

theorem witness_SetClosePlacesMembersWhole :
    (∀ held ∈ [0, 15, 16], ∀ stamp ∈ [SetStamp.absent, .stamped 200, .undetermined],
      (collecting 1 held stamp (board .contributing)).resetPin = false ∧
      takesChanges (collecting 1 held stamp (board .contributing)) = true ∧
      (collectionAt (collecting 1 held stamp (board .contributing)) 12).remaining = 1 ∧
      (collectionAt (collecting 1 held stamp (board .contributing)) 12).held.length = held ∧
      (collecting 1 held stamp (board .contributing)).stc.stripBase = 0) ∧
    (board .contributing).stc.stripBase + 48 ≤ (48#16).toNat ∧
    (∀ remaining ∈ [1, 4], 0 < (collectionAt (collecting remaining 16 .absent (board .contributing)) 12).remaining ∧
      (collectionAt (collecting remaining 16 .absent (board .contributing)) 12).held.length = 16 ∧
      (collectionAt (collecting remaining 16 .absent (board .contributing)) 12).held ≠ []) ∧
    (collectionAt (collecting 1 0 .undetermined (board .contributing)) 12).held = [] := by decide +kernel

theorem witness_StrobeAppliesDueChanges :
    (∀ st ∈ [StationState.listening, .joining, .contributing],
      (queued 2 (board st)).resetPin = false ∧ takesChanges (queued 2 (board st)) = true) ∧
    (∀ st ∈ [StationState.booting, .silent], (queued 2 (board st)).resetPin = false ∧
      ((queued 2 (board st)).stc.station = .booting ∨ (queued 2 (board st)).stc.station = .silent)) ∧
    ((board .silent).rfr.known = true ∧ (101#32).toNat = (board .silent).rfr.position.toNat + 1) := by decide +kernel

theorem witness_SettingsChangeOnlyAtStrobes :
    (∃ t, exec (.rollCall 0) (board .contributing) = .next t) ∧ (∀ p inputs, Instr.rollCall 0 ≠ .strobe p inputs) ∧
    (∀ straps, Instr.rollCall 0 ≠ .powerOn straps) ∧ (∀ straps, Instr.rollCall 0 ≠ .pinReset straps) ∧
    (∃ t, exec (.strobe 101 (Table.fill 48 0)) (board .silent) = .next t) ∧ takesChanges (board .silent) = false :=
  ⟨⟨_, rfl⟩, (fun _ _ h => by cases h), (fun _ h => by cases h), (fun _ h => by cases h), ⟨_, rfl⟩, rfl⟩

/-! ### Witnesses: channel strips -/

theorem witness_WrittenParameterReadsBack :
    ((0#16).toNat = 0 ∧ (1#16).toNat = 1 ∧ (2#16).toNat = 2 ∧ (6#16).toNat = 6 ∧ (7#16).toNat = 7) ∧
    ((3#16).toNat = 3 ∧ (4#16).toNat = 4 ∧ (5#16).toNat = 5) ∧
    (8 ≤ (8#16).toNat ∧ (15#16).toNat < 16) ∧ (16 ≤ (16#16).toNat ∧ (23#16).toNat < 24) ∧
    (24 ≤ (24#16).toNat ∧ (31#16).toNat < 32) ∧ 32 ≤ (32#16).toNat ∧ 50 ≤ (50#16).toNat ∧
    ((33#16).toNat = 33 ∧ alignAt (setAlign State.reset 0 .overdepth) 0 = .overdepth ∧
      alignAt (setAlign State.reset 0 (.normal 14)) 0 = .normal 14) ∧
    ((34#16).toNat = 34 + (0 : SendIx).val ∧ (41#16).toNat = 34 + (7 : SendIx).val ∧ (42#16).toNat = 42 + (0 : SendIx).val ∧
      (49#16).toNat = 42 + (7 : SendIx).val ∧ ((pathAt State.reset 0).sends.get 7).coef ≤ 268435456) := by decide +kernel

/-- Channel 0's ramp stands as it is said. -/
def rampAt (r : Ramp) : State := setPath (board .contributing) 0 { ChannelPath.default 0 with ramp := r }

theorem witness_WriteChangesOneParameter :
    ((46 : Chan) ≠ 47 ∧ (1#16) ≠ 2#16 ∧ (31#16).toNat < 32 ∧ (31#16) ≠ 2#16) ∧
    ((0#16).toNat = 0 ∧ (8#16).toNat = 8 + (0 : SendIx).val ∧ (15#16).toNat = 8 + (7 : SendIx).val) ∧
    ((1#16).toNat ≠ 0 ∧ ¬ (8 ≤ (7#16).toNat) ∧ ¬ ((16#16).toNat < 16)) ∧
    ((pathAt (rampAt { state := .steady, k := 32 }) 0).ramp.state = .steady ∧
      (pathAt (rampAt { state := .rampIn, k := 20 }) 0).ramp.state = .rampIn ∧
      (pathAt (rampAt { state := .rampOut, k := 0 }) 0).ramp.state = .rampOut ∧
      (pathAt (rampAt { state := .held, k := 0 }) 0).ramp.state = .held) := by decide +kernel

theorem witness_GroupsWordKeepsFirstOccurrences :
    (groupsOf 0x050905FF).length ≤ 4 ∧ (groupsOf 0x050905FF).Nodup ∧ (5 : GroupIx).val = field 0x050905FF (24 - 8 * 0) 8 ∧
    (9 : GroupIx).val = field 0x050905FF (24 - 8 * 1) 8 ∧ (0 : Fin 4) < 1 ∧
    (∀ k : Fin 4, k < 1 → (9 : GroupIx).val ≠ field 0x050905FF (24 - 8 * k.val) 8) ∧
    ([31, 0, 1, 2] : List GroupIx).length ≤ 4 ∧ ([31, 0, 1, 2] : List GroupIx).Nodup := by decide +kernel

/-- An engine with Strip Answers waiting, and one more in progress if it is said. -/
def answering (n : Nat) (p : Option InProgress) (s : State) : State :=
  s.setMse { s.mse with
    stripAnswers := List.replicate n { lane := 1, strip := 0, param := 0, value := 0 }, inProgress := p }

theorem witness_StripQueryQueuesAnswer :
    (∀ n ∈ [0, 7], ∀ st ∈ [StationState.listening, .joining, .contributing],
      (answering n none (board st)).resetPin = false ∧ takesChanges (answering n none (board st)) = true ∧
      (answering n none (board st)).mse.stripAnswers.length + inProgressCount (answering n none (board st)).mse .stripAnswer < 8) ∧
    8 ≤ (answering 8 none (board .joining)).mse.stripAnswers.length +
      inProgressCount (answering 8 none (board .joining)).mse .stripAnswer ∧
    8 ≤ (answering 7 (some { cls := .stripAnswer, rest := [0] }) (board .joining)).mse.stripAnswers.length +
      inProgressCount (answering 7 (some { cls := .stripAnswer, rest := [0] }) (board .joining)).mse .stripAnswer ∧
    (47#16).toNat = (board .joining).stc.stripBase + (47 : Chan).val ∧ (board .joining).stc.stripBase + 48 ≤ (48#16).toNat := by
  decide +kernel

/-! ### Witnesses: gain -/

theorem witness_ConvIsR60 :
    ((-480 : Int) ≤ -480) ∧
    ((-480 : Int) < 96 ∧ (96 : Int) = 24 * 4 + ((0 : Fin 24).val : Int) ∧ (0 : Int) ≤ 4 + 8) ∧
    ((-480 : Int) < -192 ∧ (-192 : Int) = 24 * -8 + ((0 : Fin 24).val : Int) ∧ (0 : Int) ≤ -8 + 8) ∧
    ((-480 : Int) < -193 ∧ (-193 : Int) = 24 * -9 + ((23 : Fin 24).val : Int) ∧ (-9 : Int) + 8 = -((1 : Nat) : Int)) ∧
    ((-480 : Int) < -479 ∧ (-479 : Int) = 24 * -20 + ((1 : Fin 24).val : Int) ∧ (-20 : Int) + 8 = -((12 : Nat) : Int)) ∧
    (-480 : Int) ≤ 97 := by decide

/-- Channel 0 open to bus 40 at unity in every setting. -/
def openSend : State :=
  setChannel (board .contributing) 0 { ChannelRecord.default 0 with
    fader := 0, sends := Table.fill 8 { bus := some 40, level := 0, on := true, invert := false } }

theorem witness_TargetsFollowTotalsAndGates :
    (meterClosed openSend 0 = false ∧ ((channelAt openSend 0).sends.get 0).on = true ∧
      ((channelAt openSend 0).sends.get 0).bus ≠ none) ∧
    (channelAt (setChannel openSend 1 { ChannelRecord.default 1 with mute := true }) 1).mute = true ∧
    alignAt (setAlign openSend 2 .overdepth) 2 = .overdepth ∧ ((channelAt openSend 3).sends.get 7).bus = none := by
  decide +kernel

/-- A send at a coefficient in a glide state. -/
def gliding (coef : Nat) (g : Glide) : SendPath := { bus := none, delay := 0, coef := coef, glide := g }

theorem witness_GlideReachesTargetInSixteenFrames :
    (gliding 16 .holding).glide = .holding ∧ (1 ≤ 1 ∧ 16 ≤ 16) ∧
    (gliding 17 (.gliding 16 31 1)).glide = .gliding 16 31 1 ∧ (17 ≠ 31 ∧ 17 = (gliding 17 (.gliding 16 31 1)).coef) ∧
    0 ≠ (gliding 17 (.gliding 16 31 1)).coef := by decide +kernel

theorem witness_ContributionsSumToLaneWords :
    (268435456 ≤ 268435456 ∧ 32 ≤ 32) ∧ ∀ k : SendIx, ((pathAt State.reset 0).sends.get k).bus ≠ some 20 := by decide +kernel

/-! ### Witnesses: groups and depth -/

theorem witness_GroupLevelWritesNamedEntry :
    field 0x001F0003 16 16 = (31 : GroupIx).val ∧ field 0x00000000 16 16 = (0 : GroupIx).val ∧ 32 ≤ field 0x00200003 16 16 ∧
      (0 : GroupIx) ≠ 31 := by decide +kernel

/-- Channel 0 returns bus 5 and is latched, and lane 3 needs depth d of bus 5. -/
def latched (d : Depth) : State :=
  let s := board .contributing
  let s := setChannel s 0 { ChannelRecord.default 0 with source := .busReturn 5 }
  let s := setLane s 3 { LaneRecord.cleared with
    presence := .present, validRun := 16, needs := (Table.fill 48 none).put 5 (some d) }
  s.setAlu { Alu.default with
    channels := (Table.fill 48 (.normal 0)).put 0 .overdepth, aligned := (Table.fill 48 0).put 5 d }

theorem latched_channel (d : Depth) (c : Chan) : channelAt (latched d) c =
    if c = 0 then { ChannelRecord.default 0 with source := .busReturn 5 } else ChannelRecord.default c := by
  rw [show channelAt (latched d) c = ((Table.make ChannelRecord.default).put 0
    { ChannelRecord.default 0 with source := .busReturn 5 }).get c from rfl, Table.get_put, Table.get_make]

theorem latched_align (d : Depth) (c : Chan) : alignAt (latched d) c = if c = 0 then .overdepth else .normal 0 := by
  rw [show alignAt (latched d) c = ((Table.fill 48 (Align.normal 0)).put 0 .overdepth).get c from rfl, Table.get_put,
    Table.get_fill]

theorem latched_aligned (d : Depth) (b : Bus) : (latched d).alu.aligned.get b = if b = 5 then d else 0 := by
  rw [show (latched d).alu.aligned.get b = ((Table.fill 48 (0 : Depth)).put 5 d).get b from rfl, Table.get_put,
    Table.get_fill]

theorem latched_lane (d : Depth) (n : LaneIx) : laneAt (latched d) n = if n = 3 then
    { LaneRecord.cleared with presence := .present, validRun := 16, needs := (Table.fill 48 none).put 5 (some d) }
    else LaneRecord.cleared := by
  rw [show laneAt (latched d) n = ((Table.fill 16 LaneRecord.cleared).put 3 { LaneRecord.cleared with
    presence := .present, validRun := 16, needs := (Table.fill 48 none).put 5 (some d) }).get n from rfl, Table.get_put,
    Table.get_fill]

theorem latched_ownNeed (d : Depth) (b : Bus) : (latched d).alu.ownNeeds.get b = none := Table.get_fill _ _

theorem latched_unassigned (d : Depth) (c : Chan) (k : SendIx) : ((channelAt (latched d) c).sends.get k).bus = none := by
  rw [latched_channel]; split <;> simp [ChannelRecord.default]

theorem latched_need (d e : Depth) (b : Bus) : NeedHeard (latched d) b e ↔ b = 5 ∧ e = d := by
  constructor
  · rintro (h | ⟨n, _, hp, h⟩)
    · rw [latched_ownNeed] at h; cases h
    · rw [latched_lane] at h hp
      split at h
      · rw [show ({ LaneRecord.cleared with presence := .present, validRun := 16, needs := (Table.fill 48 none).put 5 (some d) } :
          LaneRecord).needs = (Table.fill 48 none).put 5 (some d) from rfl, Table.get_put] at h
        split at h
        · next hb => cases h; exact ⟨hb, rfl⟩
        · simp at h
      · next hn => rw [if_neg hn] at hp; cases hp
  · rintro ⟨rfl, rfl⟩
    refine .inr ⟨3, (show (3 : LaneIx) ≠ 0 by decide), ?_, ?_⟩ <;> rw [latched_lane, if_pos rfl]
    exact Table.get_put_self _ _ _

theorem latched_alignmentOk (d : Depth) : AlignmentOk (latched d) := by
  refine ⟨fun c => ?_, fun b => ⟨fun e h => (by rw [latched_ownNeed] at h; cases h), ?_⟩, fun b => ⟨fun e h => ?_, ?_⟩⟩
  · unfold ChannelDepthOk
    rw [latched_channel, latched_align]
    by_cases h : c = 0 <;> simp [h, ChannelRecord.default]
  · rintro e ⟨c, k, _, h⟩
    rw [latched_unassigned] at h; cases h
  · obtain ⟨rfl, rfl⟩ := (latched_need d e b).mp h
    rw [latched_aligned, if_pos rfl]
  · by_cases h : b = 5
    · exact .inl ((latched_need d _ b).mpr ⟨h, by rw [latched_aligned, if_pos h]⟩)
    · exact .inr ⟨by rw [latched_aligned, if_neg h], fun e he => h ((latched_need d e b).mp he).1⟩

theorem latched_delaysOk (d : Depth) : DelaysOk (latched d) := by
  refine ⟨fun c k _ => ?_, fun c k b e h _ => ?_, fun o b h => ?_⟩
  · rw [show pathAt (latched d) c = ChannelPath.default c from Table.get_make _ _]
    simp [ChannelPath.default, effectiveDelay, PendingSet.empty]
  · rw [latched_unassigned] at h; cases h
  · rw [show (latched d).mxd.slots.get o = { bus := none, delay := 0, ramp := { state := .held, k := 0 }, pending := none }
      from Table.get_fill _ _] at h
    cases h

theorem witness_OverdepthLatchHoldsUntilRearm :
    (∀ d : Depth, (latched d).resetPin = false ∧ takesChanges (latched d) = true ∧ AlignmentOk (latched d) ∧
      DelaysOk (latched d) ∧ alignAt (latched d) 0 = .overdepth ∧ (channelAt (latched d) 0).source = .busReturn 5 ∧
      ((latched d).alu.aligned.get 5) = d) ∧
    ((14 : Depth).val = 14 ∧ (13 : Depth).val < 14 ∧ (0 : Depth).val < 14) ∧ alignAt (latched 0) 47 ≠ .overdepth ∧
    ((0#16).toNat = (latched 0).stc.stripBase + (0 : Chan).val ∧ (47#16).toNat = (latched 0).stc.stripBase + (47 : Chan).val) ∧
    (∃ t, exec .loss (latched 0) = .next t) ∧
    ((1 : Depth).val = (0 : Depth).val + 1 ∧ (14 : Depth).val = (13 : Depth).val + 1) ∧
    (∀ d k, ((channelAt (latched d) 0).sends.get k).bus = none) ∧
    (reassemblyAt (latched 0) 3 = .idle ∧ headKind (headWord 9 0 31) ≠ 7 ∧ (latched 0).chs.due = [] ∧ (latched 0).chs.queue = []) ∧
    ((47 : Chan) ≠ 0 ∧ (8#16).toNat ≠ 0 ∧ (0#16).toNat = 0 ∧ (channelAt (applyWrite 0 0 69 (latched 0)) 0).source = .busReturn 5 ∧
      (channelAt (applyWrite 0 0 47 (latched 0)) 0).source = .input 47 ∧
      (channelAt (applyWrite 0 0 48 (latched 0)) 0).source = .none) ∧
    ∀ d : Depth, d = 0 ∨ d = 13 → (match exec (.rearm 0) (latched d) with
      | .next t => decide (alignAt t 0 = .normal (d + 1))
      | _ => false) = true :=
  ⟨fun d => ⟨rfl, rfl, latched_alignmentOk d, latched_delaysOk d, by rw [latched_align, if_pos rfl],
    by rw [latched_channel, if_pos rfl], by rw [latched_aligned, if_pos rfl]⟩,
    by decide, by rw [latched_align]; decide, by decide +kernel, ⟨_, rfl⟩, by decide, fun d => latched_unassigned d 0, by decide +kernel,
    by decide +kernel, by
    rintro d (rfl | rfl) <;> decide +kernel⟩

/-- A Station Reset's kept channels: a latched one and a Normal one, each with a send to bus 40, and a slot of bus 40. -/
def kept : State :=
  let s := withSlot 32 openSend
  let s := setChannel s 1 { ChannelRecord.default 1 with
    source := .busReturn 5, sends := Table.fill 8 { bus := some 40, level := 0, on := true, invert := false } }
  setAlign s 1 .overdepth

theorem witness_StationResetKeepsAssigned :
    (kept.resetPin = false ∧ kept.stc.station = .contributing ∧ (31#5).toNat = 31 ∧ alignAt kept 1 = .overdepth) ∧
    (((channelAt kept 0).sends.get 0).bus = some 40 ∧ ((channelAt kept 1).sends.get 7).bus = some 40 ∧
      ((channelAt kept 2).sends.get 0).bus = none ∧ (kept.mxd.slots.get 3).bus = some 40) ∧
    (match exec (.stationReset 31 0) kept with
      | .next t => decide (alignAt t 0 = .normal 0) && decide (alignAt t 1 = .overdepth)
      | _ => false) = true := by decide +kernel

/-! ### Witnesses: ramps and frames -/

/-- Channel 0 and slot 3 stand in a ramp, with a delay of 5 pending on the slot. -/
def ramping (r : Ramp) (s : State) : State :=
  { s with mxd := { s.mxd with
      channels := s.mxd.channels.put 0 { ChannelPath.default 0 with ramp := r }
      slots := s.mxd.slots.put 3 { bus := some 40, delay := 11, ramp := r, pending := some 5 } } }

theorem witness_SwitchRampRunsSixtyFourFrames :
    (pathAt (ramping { state := .rampOut, k := 32 } (board .silent)) 0).ramp = { state := .rampOut, k := 32 } ∧
    (pathAt State.reset 0).ramp = { state := .held, k := 0 } ∧
    (∀ st ∈ [StationState.listening, .joining, .contributing, .silent], (board st).resetPin = false ∧
      ((board st).stc.station = .listening ∨ (board st).stc.station = .joining ∧ (board st).stc.joiningComplete = false ∨
        (board st).stc.station = .contributing ∨ (board st).stc.station = .silent)) := by
  decide +kernel

theorem witness_PendingSetComesIntoForceWhole :
    ∀ st ∈ [StationState.listening, .contributing, .silent],
      (ramping { state := .rampOut, k := 0 } (board st)).resetPin = false ∧
      takesFrames (ramping { state := .rampOut, k := 0 } (board st)) = true ∧
      (pathAt (ramping { state := .rampOut, k := 0 } (board st)) 0).ramp = { state := .rampOut, k := 0 } ∧
      ((ramping { state := .rampOut, k := 0 } (board st)).mxd.slots.get 3).ramp = { state := .rampOut, k := 0 } := by
  decide +kernel

theorem witness_StrobeClosesFrame :
    (∀ st ∈ [StationState.listening, .joining, .contributing, .silent], (board st).resetPin = false ∧
      (board st).stc.station ≠ .booting ∧ (board st).stc.station ≠ .isolated ∧ (board st).mxd.totals = none) ∧
    (openTotals (fun _ => 8388608) (board .contributing)).mxd.totals = some (Table.make fun _ => 8388608) ∧
    ((Table.make fun _ => (8388608 : Int)).get (47 : Bus) < -8388608 ∨ 8388607 < (Table.make fun _ => (8388608 : Int)).get (47 : Bus)) ∧
    ((withSlot 32 (board .contributing)).mxd.slots.get 3).bus = some 40 ∧
    ((withSlot 32 (board .contributing)).mxd.slots.get 3).ramp.k ≤ 32 ∧
    ((withSlot 32 (board .contributing)).mxd.slots.get 4).bus = none ∧
    ((1 : OutPortIx).val = (15 : SlotIx).val / 8 ∧ (7 : OutPlaceIx).val = (15 : SlotIx).val - 8 * ((15 : SlotIx).val / 8)) ∧
    ((0 : OutPortIx).val = (7 : SlotIx).val / 8 ∧ (7 : OutPlaceIx).val = (7 : SlotIx).val - 8 * ((7 : SlotIx).val / 8)) ∧
    ∀ st ∈ [StationState.listening, .contributing], ∃ t, exec (.strobe 101 (Table.fill 48 0)) (board st) = .next t ∧
      t.stc.station = (board st).stc.station := by
  refine ⟨by decide +kernel, by decide +kernel, by decide +kernel, by decide +kernel, by decide +kernel, by decide +kernel,
    by decide, by decide, fun st h => ?_⟩
  fin_cases h <;> exact ⟨_, rfl, by decide +kernel⟩

/-! ### Witnesses: messages -/

/-- Lane 12's reassembly record stands collecting. -/
def reassembling (mark : DiscardMark) (remaining : Nat) : State :=
  setReassembly (board .contributing) 12 (.collecting mark 0x0BF40000 remaining [])

theorem witness_ReassemblyTakesWordsAndLosses :
    (reassemblyAt (board .contributing) 12 = .idle ∧ (0x48180000 : Word) ≠ 0 ∧ headLength 0x48180000 = 0 ∧
      (0x0BF40000 : Word) ≠ 0 ∧ headLength 0x0BF40000 ≠ 0) ∧
    (∀ mark ∈ [DiscardMark.keep, .discard], ∀ n ∈ [0, 1, 2, 6],
      reassemblyAt (reassembling mark (n + 1)) 12 = .collecting mark 0x0BF40000 (n + 1) []) ∧ (13 : LaneIx) ≠ 12 := by
  decide +kernel

theorem witness_MalformedMessageIsSkipped :
    (headKind (headWord 16 0 31) = 16 ∧ headKind (headWord 19 7 30) = 19 ∧ headKind (headWord 0 1 30) = 0 ∧
      headKind (headWord 11 0 30) = 11 ∧ headKind (headWord 15 0 30) = 15 ∧ headKind (headWord 20 0 30) = 20 ∧
      headKind (headWord 31 7 30) = 31) ∧
    (headKind (headWord 1 2 30) = 1 ∧ headKind (headWord 3 3 31) = 3 ∧ headStamped (headWord 1 2 30) = false ∧
      headStamped (headWord 1 3 30 ||| 0x40000) = true) ∧
    (headKind (headWord 2 1 30) = 2 ∧ headKind (headWord 8 1 30) = 8 ∧ headKind (headWord 9 0 30) = 9 ∧
      headKind (headWord 10 0 30) = 10) ∧
    (headDest (headWord 8 1 30) = 30 ∧ headDest (headWord 9 0 30) = 30 ∧ headDest (headWord 10 0 30) = 30) ∧
    ((0#32).toNat = 0 ∧ 4 < (5#32).toNat ∧ headKind (headWord 4 1 31) = 4) ∧ (board .silent).resetPin = false ∧
    ((headWord 1 2 30).getLsbD 18 = false ∧ (headWord 3 2 31).getLsbD 18 = false ∧ headKind (headWord 3 2 31) = 3 ∧
      (0x0BF40000#32).getLsbD 18 = true ∧ headKind 0x0BF40000 = 1 ∧
      (0x1BFC0000#32).getLsbD 18 = true ∧ headKind 0x1BFC0000 = 3) ∧
    (headKind (headWord 5 1 31) = 5 ∧ headKind (headWord 6 1 31) = 6 ∧ headKind (headWord 7 1 31) = 7 ∧
      headKind (headWord 8 1 3) = 8 ∧ headKind (headWord 9 0 31) = 9 ∧ headKind (headWord 10 0 31) = 10) := by
  decide +kernel

/-- An engine with a message in progress. -/
def sending (rest : List Word) (s : State) : State :=
  s.setMse { s.mse with inProgress := some { cls := .notice, rest := rest } }

/-- An engine with a message waiting in every class. -/
def waiting (announce : Bool) (notices strips meters : Nat) : State :=
  (board .contributing).setMse { Mse.cleared with
    announceWaiting := announce
    notices := List.replicate notices { condition := .clip, position := 0 }
    stripAnswers := List.replicate strips { lane := 1, strip := 0, param := 0, value := 0 }
    meterAnswers := List.replicate meters { strip := 0, steps := 0, clip := false } }

theorem witness_ArbiterServesLowestClassFirst :
    ((sending [1] (board .contributing)).mse.inProgress = some { cls := .notice, rest := 1 :: [] } ∧
      (sending [1, 2] (board .contributing)).mse.inProgress = some { cls := .notice, rest := 1 :: [2] }) ∧
    ((waiting true 8 8 8).mse.inProgress = none ∧ (waiting true 8 8 8).mse.announceWaiting = true) ∧
    ((waiting false 1 8 8).mse.announceWaiting = false ∧
      (waiting false 1 8 8).mse.notices = { condition := .clip, position := 0 } :: []) ∧
    ((waiting false 0 1 8).mse.notices = [] ∧
      (waiting false 0 1 8).mse.stripAnswers = { lane := 1, strip := 0, param := 0, value := 0 } :: []) ∧
    ((waiting false 0 0 1).mse.stripAnswers = [] ∧
      (waiting false 0 0 1).mse.meterAnswers = { strip := 0, steps := 0, clip := false } :: []) ∧
    (waiting false 0 0 0).mse.meterAnswers = [] ∧ State.reset.stc.stripBase ≤ 720 ∧
    (State.reset.setStc { Stc.default with stripBase := 720 }).stc.stripBase ≤ 720 := by decide +kernel

/-- 9.6: a Meter Answer for strip 60 at −36 steps carries 0xFFDC with the clip flag clear (11, worked conversion), a Strip Answer
to lane 12 is headed as kind 17, and a BootFault Notice carries condition 6 (09, worked sequence). -/
theorem test_outgoing_words :
    meterAnswerWords { strip := 60, steps := -36, clip := false } = [0x92F80000, 0x003C0000, 0x0000FFDC] ∧
      stripAnswerWords { lane := 12, strip := 60, param := 2, value := 7 } = [0x8A600000, 0x003C0002, 7] ∧
      noticeWords { condition := .bootFault, position := 9 } = [0x9AF80000, 6, 9] := by decide +kernel

theorem witness_ClearConditionsAndRollCall :
    (∀ st ∈ [StationState.listening, .joining, .contributing],
      (board st).resetPin = false ∧ takesChanges (board st) = true) ∧
    (∀ st ∈ [StationState.booting, .silent, .isolated],
      (board st).resetPin = false ∧ takesChanges (board st) = false) ∧
    ((0#5) ≠ 30 ∧ (31#5) ≠ 30 ∧ (0#5).toNat = (board .contributing).stc.nodeId.val ∧ (31#5).toNat = 31) ∧
    ((15#5) ≠ 30 ∧ (15#5).toNat ≠ (board .contributing).stc.nodeId.val ∧ (15#5).toNat ≠ 31) ∧
    (∀ st ∈ [StationState.booting, .isolated], (board st).resetPin = false ∧ takesFrames (board st) = false) ∧
    (board .contributing).stc.stripBase + 48 ≤ (48#16).toNat ∧
    (191#16).toNat < ((board .contributing).setStc { Stc.default with stripBase := 192 }).stc.stripBase := by decide +kernel

/-! ### Witnesses: conditions and meters -/

theorem witness_ConditionsRaiseFlagNoticeAndAlert :
    (raise .clip (board .contributing)).stc.conditions.getLsbD (conditionNumber .clip) = true ∧
      (board .contributing).resetPin = false ∧ ((board .contributing).setResetPin true).resetPin = true := by decide +kernel

/-- An engine that watches strip 7 in entry 2, with the pointer where it is said. -/
def watching (pointer : EntryIx) (s : State) : State :=
  s.setMtu
    { entries := (Table.fill 8 none).put 2 (some { strip := 7, channel := 7, peak := 3000000, waiting := false })
      pointer := pointer
      windowCount := 2047 }

theorem watching_entry (p : EntryIx) (s : State) (e : EntryIx) : (watching p s).mtu.entries.get e =
    if e = 2 then some { strip := 7, channel := 7, peak := 3000000, waiting := false } else none := by
  rw [show (watching p s).mtu.entries.get e = ((Table.fill 8 none).put 2
    (some { strip := 7, channel := 7, peak := 3000000, waiting := false })).get e from rfl, Table.get_put, Table.get_fill]

theorem witness_WatchTableKeepsHitsReplacesAtPointer :
    (∀ p ∈ [(2 : EntryIx), 7], (watching p (board .contributing)).resetPin = false ∧
      takesChanges (watching p (board .contributing)) = true ∧
      ((watching p (board .contributing)).mtu.entries.get 2).map WatchEntry.strip = some 7 ∧
      ∀ f, f ≠ 2 → (watching p (board .contributing)).mtu.entries.get f = none) ∧
    ((7#16).toNat = (board .contributing).stc.stripBase + (7 : Chan).val ∧
      (47#16).toNat = (board .contributing).stc.stripBase + (47 : Chan).val) ∧
    ∀ f, ((watching 2 (board .contributing)).mtu.entries.get f).map WatchEntry.strip ≠ some 47 := by decide +kernel

/-- The same engine one frame short of a window end. -/
def windowing : State := watching 7 (board .contributing)

theorem windowing_metersOk : MetersOk windowing := by
  refine ⟨fun e w h => ?_, fun e f w x h h' _ => ?_, fun e w h hw => ?_, (fun h => by cases h), by decide⟩
  · rw [windowing, watching_entry] at h
    split at h <;> cases h
    rfl
  · rw [windowing, watching_entry] at h h'
    split at h
    · next he =>
      split at h'
      · next hf => exact he.trans hf.symm
      · cases h'
    · cases h
  · rw [windowing, watching_entry] at h
    split at h <;> cases h
    cases hw

/-- The same engine with Meter Answers of other strips and of strip 7 waiting. -/
def metering (others own : Nat) (s : State) : State :=
  s.setMse { s.mse with
    meterAnswers := List.replicate others { strip := 0, steps := 0, clip := false } ++
      List.replicate own { strip := 7, steps := 0, clip := false } }

theorem witness_WindowEndQueuesReadings :
    (windowing.resetPin = false ∧ windowing.stc.station = .contributing ∧ windowing.mtu.windowCount = 2047 ∧
      MetersOk windowing ∧ windowing.mse.meterAnswers = [] ∧ inProgressCount windowing.mse .meterAnswer = 0) ∧
    ((∀ x ∈ [(0, 0), (6, 1), (7, 0), (7, 1), (8, 0)], (metering x.1 x.2 windowing).resetPin = false ∧
        (metering x.1 x.2 windowing).stc.station = .contributing ∧ (metering x.1 x.2 windowing).mtu.windowCount = 2047 ∧
        (metering x.1 x.2 windowing).mse.meterAnswers.length + inProgressCount (metering x.1 x.2 windowing).mse .meterAnswer =
          x.1 + x.2 ∧
        (metering x.1 x.2 windowing).mtu.entries.get 0 = none ∧
        (metering x.1 x.2 windowing).mtu.entries.get 2 = some { strip := 7, channel := 7, peak := 3000000, waiting := false }) ∧
      (∃ a ∈ (metering 6 1 windowing).mse.meterAnswers, a.strip = 7) ∧
      ∀ a ∈ (metering 8 0 windowing).mse.meterAnswers, a.strip ≠ 7) ∧
    ((joined.resetPin = false ∧ joined.stc.station = .joining ∧ joined.stc.joiningComplete = true) ∧
      (counting 2046 windowing).mtu.windowCount + 1 ≠ 2048 ∧ windowing.mtu.windowCount + 1 = 2048) ∧
    (MetersOk (sending [1, 2] windowing) ∧ (sending [1, 2] windowing).mse.meterAnswers = [] ∧
      (sending [1, 2] windowing).stc.station = .contributing ∧ (sending [1, 2] windowing).resetPin = false ∧
      (sending [1, 2] windowing).mse.inProgress = some { cls := .notice, rest := [1, 2] } ∧
      TxClass.notice ≠ .meterAnswer ∧ 2 ≤ [(1 : Word), 2].length) :=
  ⟨⟨rfl, rfl, rfl, windowing_metersOk, rfl, rfl⟩, by decide +kernel, by decide +kernel, windowing_metersOk, rfl, rfl, rfl, rfl,
    by decide, by decide⟩

theorem witness_PeakStepsAreR176 :
    (∀ x ∈ [(1, 0, (0 : Fin 24)), (3000000, 21, 12), (8388607, 22, 23), (8388608, 23, 0), (134217728, 27, 0)],
      2 ^ x.2.1 ≤ x.1 ∧ x.1 < 2 ^ (x.2.1 + 1) ∧ Config.gainBase.get x.2.2 ≤ x.1 * 2 ^ 16 / 2 ^ x.2.1 ∧
      ∀ r : Fin 24, Config.gainBase.get r ≤ x.1 * 2 ^ 16 / 2 ^ x.2.1 → r ≤ x.2.2) ∧ 1 ≤ 1 ∧ 134217728 ≤ 2 ^ 27 := by
  decide +kernel

end Sys2Proof.Tests
end

section
/-! The Stage Link: the lane records, what an arrival does to them, and the soundness of the Lane Table (R10 to R20, R94). -/

namespace Sys2Proof.Machine

/-! ### Lane records -/

theorem laneAt_setLane (s : State) (m n : LaneIx) (r : LaneRecord) :
    laneAt (setLane s n r) m = if m = n then r else laneAt s m := by
  simp only [laneAt, setLane, State.setLif_lif, Table.get_put]

@[simp] theorem laneAt_setLane_self (s : State) (n : LaneIx) (r : LaneRecord) : laneAt (setLane s n r) n = r := by
  simp [laneAt_setLane]

theorem laneAt_setLane_ne (s : State) {m n : LaneIx} (h : m ≠ n) (r : LaneRecord) :
    laneAt (setLane s n r) m = laneAt s m := by
  simp [laneAt_setLane, h]

/-- The second of two records stored for one lane stands. -/
@[simp] theorem setLane_setLane (s : State) (n : LaneIx) (q r : LaneRecord) :
    setLane (setLane s n q) n r = setLane s n r := by
  simp [setLane, Table.put]

/-- Storing a lane record leaves the rest of the Link Interface. -/
@[simp] theorem setLane_lif (s : State) (n : LaneIx) (r : LaneRecord) :
    (setLane s n r).lif = { s.lif with lanes := s.lif.lanes.put n r } := rfl

/-- The record with its scope bits and needs dropped (R17). -/
def LaneRecord.dropped (r : LaneRecord) : LaneRecord :=
  { r with scopes := Table.fill 8 false, needs := Table.fill 48 none }

/-! ### The presence rules, one case each (R12 to R14) -/

section
variable {r : LaneRecord} {k : ArrivalKind}

theorem presenceStep_absent_invalid (h : r.presence = .absent) :
    presenceStep r .invalid = ({ r with validRun := 0, invalidRun := 0 }, .nothing) := by
  simp [presenceStep, h]

theorem presenceStep_absent_valid (h : r.presence = .absent) (hk : k ≠ .invalid) :
    presenceStep r k = ({ r with presence := .joining, validRun := 1, invalidRun := 0 }, .nothing) := by
  cases k <;> simp_all [presenceStep]

theorem presenceStep_joining_invalid (h : r.presence = .joining) :
    presenceStep r .invalid = ({ r with presence := .absent, validRun := 0, invalidRun := 0 }, .nothing) := by
  simp [presenceStep, h]

/-- A valid arrival that does not make the lane Present is counted (R13). -/
theorem presenceStep_joining_counts (h : r.presence = .joining) (hk : k ≠ .invalid)
    (hc : ¬ (16 ≤ r.validRun ∧ k = .contributing)) :
    presenceStep r k = ({ r with validRun := min 16 (r.validRun + 1) }, .nothing) := by
  cases k with
  | invalid => exact absurd rfl hk
  | restarted => simp [presenceStep, h]
  | contributing =>
    have hlt : r.validRun < 16 := by simpa using hc
    simp [presenceStep, h, hlt]

theorem presenceStep_joining_present (h : r.presence = .joining) (hc : 16 ≤ r.validRun) :
    presenceStep r .contributing = ({ r with presence := .present, invalidRun := 0 }, .contentsTaken) := by
  simp [presenceStep, h, hc]

theorem presenceStep_present_contributing (h : r.presence = .present) :
    presenceStep r .contributing = ({ r with invalidRun := 0 }, .contentsTaken) := by
  simp [presenceStep, h]

theorem presenceStep_present_restarted (h : r.presence = .present) :
    presenceStep r .restarted = ({ r with presence := .joining, invalidRun := 0 }, .leftByRestart) := by
  simp [presenceStep, h]

theorem presenceStep_present_missed (h : r.presence = .present) (hc : r.invalidRun < 15) :
    presenceStep r .invalid = ({ r with invalidRun := r.invalidRun + 1 }, .frameLost) := by
  simp [presenceStep, h, hc]

theorem presenceStep_present_lost (h : r.presence = .present) (hc : 15 ≤ r.invalidRun) :
    presenceStep r .invalid = ({ r with presence := .absent, validRun := 0, invalidRun := 0 }, .leftByLoss) := by
  have hlt : ¬ r.invalidRun + 1 < 16 := by omega
  simp only [presenceStep, h, Config.lossRun, if_neg hlt]

end

/-- What the presence rules can come to: to show a property of the outcome, show it of each case (R12 to R14). -/
theorem presenceStep_cases {P : LaneRecord × PresenceEvent → Prop} (r : LaneRecord) (k : ArrivalKind)
    (absent : r.presence ≠ .present → P ({ r with presence := .absent, validRun := 0, invalidRun := 0 }, .nothing))
    (first : r.presence = .absent → P ({ r with presence := .joining, validRun := 1, invalidRun := 0 }, .nothing))
    (counted : r.presence = .joining → P ({ r with validRun := min 16 (r.validRun + 1) }, .nothing))
    (present : r.presence = .joining → 16 ≤ r.validRun →
      P ({ r with presence := .present, invalidRun := 0 }, .contentsTaken))
    (taken : r.presence = .present → P ({ r with invalidRun := 0 }, .contentsTaken))
    (missed : r.presence = .present → r.invalidRun < 15 → P ({ r with invalidRun := r.invalidRun + 1 }, .frameLost))
    (restarted : r.presence = .present → P ({ r with presence := .joining, invalidRun := 0 }, .leftByRestart))
    (lost : r.presence = .present → P ({ r with presence := .absent, validRun := 0, invalidRun := 0 }, .leftByLoss)) :
    P (presenceStep r k) := by
  cases hp : r.presence with
  | absent =>
    by_cases hk : k = .invalid
    · subst hk
      rw [presenceStep_absent_invalid hp]
      simpa only [hp] using absent (by simp [hp])
    · rw [presenceStep_absent_valid hp hk]; exact first hp
  | joining =>
    by_cases hk : k = .invalid
    · subst hk; rw [presenceStep_joining_invalid hp]; exact absent (by simp [hp])
    · by_cases hc : 16 ≤ r.validRun ∧ k = .contributing
      · obtain ⟨hrun, rfl⟩ := hc
        rw [presenceStep_joining_present hp hrun]; exact present hp hrun
      · rw [presenceStep_joining_counts hp hk hc]; exact counted hp
  | present =>
    cases k with
    | invalid =>
      by_cases hc : r.invalidRun < 15
      · rw [presenceStep_present_missed hp hc]; exact missed hp hc
      · rw [presenceStep_present_lost hp (by omega)]; exact lost hp
    | restarted => rw [presenceStep_present_restarted hp]; exact restarted hp
    | contributing => rw [presenceStep_present_contributing hp]; exact taken hp

section
variable {r : LaneRecord}

theorem countsOk_joining (h : r.presence = .joining) :
    countsOk r ↔ 1 ≤ r.validRun ∧ r.validRun ≤ 16 ∧ r.invalidRun = 0 := by
  rw [countsOk, h]

theorem countsOk_present (h : r.presence = .present) : countsOk r ↔ r.validRun = 16 ∧ r.invalidRun < 16 := by
  rw [countsOk, h]

end

/-- The presence rules keep the counts of each presence state (R10, R12 to R14). -/
theorem presenceStep_countsOk (r : LaneRecord) (k : ArrivalKind) (h : countsOk r) : countsOk (presenceStep r k).1 := by
  refine presenceStep_cases (P := fun out => countsOk out.1) r k (fun _ => ⟨rfl, rfl⟩)
    (fun _ => ⟨Nat.le_refl 1, by simp, rfl⟩) (fun hp => ?counted) (fun hp hrun => ?present) (fun hp => ?taken)
    (fun hp hinv => ?missed) (fun hp => ?restarted) (fun _ => ⟨rfl, rfl⟩)
  case counted =>
    obtain ⟨h1, h16, h0⟩ := (countsOk_joining hp).mp h
    exact (countsOk_joining (r := { r with validRun := min 16 (r.validRun + 1) }) hp).mpr
      ⟨Nat.le_min.mpr ⟨by decide, by omega⟩, Nat.min_le_left _ _, h0⟩
  case present =>
    obtain ⟨-, h16, -⟩ := (countsOk_joining hp).mp h
    exact ⟨Nat.le_antisymm h16 hrun, Nat.zero_lt_succ 15⟩
  case taken =>
    obtain ⟨h16, -⟩ := (countsOk_present hp).mp h
    exact (countsOk_present (r := { r with invalidRun := 0 }) hp).mpr ⟨h16, Nat.zero_lt_succ 15⟩
  case missed =>
    obtain ⟨h16, -⟩ := (countsOk_present hp).mp h
    exact (countsOk_present (r := { r with invalidRun := r.invalidRun + 1 }) hp).mpr ⟨h16, Nat.succ_lt_succ hinv⟩
  case restarted =>
    obtain ⟨h16, -⟩ := (countsOk_present hp).mp h
    exact ⟨by simp [h16], h16.le, rfl⟩

/-- The presence rules write neither scope bits nor needs. -/
theorem presenceStep_contents (r : LaneRecord) (k : ArrivalKind) :
    (presenceStep r k).1.scopes = r.scopes ∧ (presenceStep r k).1.needs = r.needs := by
  refine presenceStep_cases (P := fun out => out.1.scopes = r.scopes ∧ out.1.needs = r.needs) r k ?_ ?_ ?_ ?_ ?_ ?_ ?_ ?_
  all_goals intros; exact ⟨rfl, rfl⟩

/-! ### A sound Lane Table -/

/-- The soundness of the Lane Table depends on the lane records, the own-index record's mode, the readback counts, the node ID,
the station state and the report of Joining complete. -/
theorem LaneTableOk.congr {s t : State} (i : LaneTableOk s)
    (hl : t.lif.lanes = s.lif.lanes ∧ t.lif.ownMode = s.lif.ownMode ∧ t.lif.mismatch = s.lif.mismatch ∧
      t.lif.cleanRun = s.lif.cleanRun)
    (hs : t.stc.nodeId = s.stc.nodeId ∧ t.stc.station = s.stc.station ∧
      t.stc.joiningComplete = s.stc.joiningComplete) : LaneTableOk t := by
  obtain ⟨hlanes, hmode, hmis, hclean⟩ := hl
  obtain ⟨hnode, hst, hjc⟩ := hs
  simpa only [LaneTableOk, ownModeOk, laneAt, hlanes, hmode, hmis, hclean, hnode, hst, hjc] using i

/-- Where the Link Interface and the station stand, so does the soundness of the Lane Table. -/
theorem LaneTableOk.of_lif {s t : State} (i : LaneTableOk s) (hl : t.lif = s.lif)
    (hs : t.stc.nodeId = s.stc.nodeId ∧ t.stc.station = s.stc.station ∧
      t.stc.joiningComplete = s.stc.joiningComplete) : LaneTableOk t :=
  i.congr (by simp [hl]) hs

/-- With every lane record cleared (R10) the Lane Table is sound. -/
theorem laneTableOk_of_cleared {t : State} (hl : t.lif.lanes = Table.fill 16 LaneRecord.cleared) (hm : ownModeOk t)
    (hmis : t.lif.mismatch ≤ 4) (hclean : t.lif.cleanRun ≤ 64)
    (hj : t.stc.joiningComplete = true → t.stc.station = .joining) : LaneTableOk t := by
  have hr : ∀ n, laneAt t n = LaneRecord.cleared := fun n => by simp [laneAt, hl]
  refine ⟨fun n => ?_, fun n _ => ?_, hm, hmis, hclean, hj⟩
  · rw [hr]; exact ⟨rfl, rfl⟩
  · rw [hr]; exact ⟨rfl, rfl⟩

/-- In Booting with the Link Interface as a reset leaves it, the Lane Table is sound. -/
theorem laneTableOk_of_reset {t : State} (d : Option (Table 54 Word)) (hl : t.lif = { Lif.cleared with driven := d })
    (hst : t.stc.station = .booting) (hj : t.stc.joiningComplete = false) : LaneTableOk t := by
  have hm : ownModeOk t := by rw [ownModeOk, hst, hl]; rfl
  exact laneTableOk_of_cleared (by rw [hl]; rfl) hm (by simp [hl, Lif.cleared]) (by simp [hl, Lif.cleared]) (by simp [hj])

/-- A sound record put in the table keeps it sound (R10, R94). -/
theorem LaneTableOk.setLane {s : State} (i : LaneTableOk s) (n : LaneIx) (r : LaneRecord) (hc : countsOk r)
    (he : r.presence ≠ .present ∨ n = s.stc.nodeId → r.scopes = Table.fill 8 false ∧ r.needs = Table.fill 48 none) :
    LaneTableOk (setLane s n r) := by
  obtain ⟨hcounts, hempty, hmode, hmis, hclean, hjc⟩ := i
  refine ⟨fun m => ?_, fun m hm => ?_, by simpa [ownModeOk] using hmode, hmis, hclean, by simpa using hjc⟩
  · rw [laneAt_setLane]
    split
    · exact hc
    · exact hcounts m
  · rw [laneAt_setLane] at hm ⊢
    by_cases hmn : m = n
    · subst hmn; simp only [if_true] at hm ⊢; exact he (by simpa using hm)
    · simp only [hmn, if_false] at hm ⊢; exact hempty m (by simpa using hm)

/-- The station, the report of Joining complete and the own-index record's mode may change where they agree (R11, R19). -/
theorem LaneTableOk.setStation {s t : State} (i : LaneTableOk s)
    (hl : t.lif.lanes = s.lif.lanes ∧ t.lif.mismatch = s.lif.mismatch ∧ t.lif.cleanRun = s.lif.cleanRun)
    (hn : t.stc.nodeId = s.stc.nodeId) (hm : ownModeOk t)
    (hj : t.stc.joiningComplete = true → t.stc.station = .joining) : LaneTableOk t := by
  obtain ⟨hlanes, hmis, hclean⟩ := hl
  obtain ⟨hcounts, hempty, -, hmis4, hclean64, -⟩ := i
  simp only [LaneTableOk, laneAt, hlanes, hmis, hclean, hn] at *
  exact ⟨hcounts, hempty, hm, hmis4, hclean64, hj⟩

/-- Outside Joining no Joining complete is reported (R19). -/
theorem LaneTableOk.not_complete {s : State} (i : LaneTableOk s) (h : s.stc.station ≠ .joining) :
    s.stc.joiningComplete = false := by
  obtain ⟨-, -, -, -, -, hjc⟩ := i
  cases hb : s.stc.joiningComplete with
  | false => rfl
  | true => exact absurd (hjc hb) h

/-! ### Resets and the boot read -/

/-- A station reset forgets every lane, and keeps the lane driven in the frame in progress (R6, R10, R33). -/
theorem stationResetTaken_lif (straps : BitVec 4) (s : State) :
    (stationResetTaken straps s).lif = { Lif.cleared with driven := s.lif.driven } := by
  simp [stationResetTaken, stationResetBlocks, stationResetLif]

/-- A boot read ends in Listening (R23, R25). -/
theorem bootReadEnds_station (b : Option BootSettings) (s : State) : (bootReadEnds b s).stc.station = .listening := by
  cases b <;> rfl

theorem LaneTableOk.bootReadEnds {s : State} (i : LaneTableOk s) (b : Option BootSettings)
    (h : s.stc.station = .booting) : LaneTableOk (bootReadEnds b s) := by
  have hmode : s.lif.ownMode = .watched := by
    obtain ⟨-, -, hm, -⟩ := i
    rwa [ownModeOk, h] at hm
  have hjc : s.stc.joiningComplete = false := i.not_complete (by simp [h])
  exact i.setStation (by simp) (by simp) (by simpa [ownModeOk, bootReadEnds_station] using hmode) (by simp [hjc])

/-! ### Leaving and joining the link -/

theorem enterSilent_stc (cause : StopCause) (s : State) :
    (enterSilent cause s).stc.station = .silent ∧ (enterSilent cause s).stc.joiningComplete = false := ⟨rfl, rfl⟩

theorem LaneTableOk.enterSilent {s : State} (i : LaneTableOk s) (cause : StopCause) : LaneTableOk (enterSilent cause s) :=
  i.setStation (by simp) (by simp) trivial (by simp [enterSilent_stc])

/-- The entry to Joining leaves the own record Absent and Own, with the own counts at 0 (R11, R26). -/
theorem LaneTableOk.enterJoining {s : State} (i : LaneTableOk s) : LaneTableOk (enterJoining s) := by
  obtain ⟨-, hempty, -⟩ := id i
  have put := LaneTableOk.setLane i s.stc.nodeId
    { laneAt s s.stc.nodeId with presence := .absent, validRun := 0, invalidRun := 0 } ⟨rfl, rfl⟩ (fun _ => hempty _ (.inr rfl))
  obtain ⟨hcounts, hempty', -⟩ := put
  exact ⟨hcounts, hempty', rfl, Nat.zero_le _, Nat.zero_le _, fun _ => rfl⟩

/-- The end of Listening enters Joining or Silent (R25). -/
theorem LaneTableOk.decideListening {s : State} (i : LaneTableOk s) : LaneTableOk (decideListening s) := by
  unfold Machine.decideListening
  split
  · exact i.enterJoining
  · exact i.enterSilent _
  · exact i.enterSilent _

/-- A Loss leaves the lane records and the readback counts. -/
theorem lossAtBlocks_lif (s : State) :
    (lossAtBlocks s).lif = { s.lif with receiving := false, driven := none } := by
  simp [lossAtBlocks]

theorem LaneTableOk.lossTaken {s : State} (i : LaneTableOk s) : LaneTableOk (lossTaken s) := by
  have atBlocks : LaneTableOk (lossAtBlocks s) := i.congr (by simp [lossAtBlocks_lif]) (by simp)
  unfold Machine.lossTaken
  split
  · exact atBlocks.setStation (by simp) (by simp) trivial (fun h => by cases h)
  · exact atBlocks

/-! ### A strobe -/

/-- Outside the end of Isolated a strobe leaves the lane records and the readback counts. -/
theorem formedAtStrobe_lif (p : Position) (inputs : Table 48 Sample) (s : State) :
    (formedAtStrobe p inputs s).lif =
      if s.stc.station = .isolated then { s.lif with lanes := Table.fill 16 LaneRecord.cleared, ownMode := .watched }
      else s.lif := by
  unfold formedAtStrobe stationAtStrobe
  simp only [formFrame_keeps, changesAtStrobe_keeps, closeFrame_keeps, takeStrobe_keeps]
  cases hst : s.stc.station with
  | isolated => simp [leaveIsolated]
  | joining => cases s.stc.joiningComplete <;> simp
  | _ => simp

/-- Opening a frame leaves the lane records and the readback counts. -/
theorem openByStation_lanes (b s : State) :
    (openByStation b s).lif.lanes = s.lif.lanes ∧ (openByStation b s).lif.ownMode = s.lif.ownMode ∧
    (openByStation b s).lif.mismatch = s.lif.mismatch ∧ (openByStation b s).lif.cleanRun = s.lif.cleanRun := by
  rw [openByStation_lif]
  split <;> exact ⟨rfl, rfl, rfl, rfl⟩

/-- A strobe in Booting leaves the Link Interface but for the frame in progress (R21). -/
theorem strobeInBooting_lif (e : StrobeEvent) (s : State) :
    (strobeInBooting e s).lif = { s.lif with receiving := false, driven := none } := by
  unfold strobeInBooting
  dsimp only
  split <;> simp

/-- Outside Booting a strobe leaves the readback counts, and the lane records and the own-index record's mode but at the end
of Isolated (R32). -/
theorem strobeTaken_lanes (p : Position) (inputs : Table 48 Sample) {s : State} (hb : s.stc.station ≠ .booting) :
    (strobeTaken p inputs s).lif.lanes =
      (if s.stc.station = .isolated then Table.fill 16 LaneRecord.cleared else s.lif.lanes) ∧
    (strobeTaken p inputs s).lif.ownMode = (if s.stc.station = .isolated then .watched else s.lif.ownMode) ∧
    (strobeTaken p inputs s).lif.mismatch = s.lif.mismatch ∧ (strobeTaken p inputs s).lif.cleanRun = s.lif.cleanRun := by
  obtain ⟨hlanes, hmode, hmis, hclean⟩ := openByStation_lanes s (formedAtStrobe p inputs s)
  rw [strobeTaken_eq _ _ _ hb, hlanes, hmode, hmis, hclean, formedAtStrobe_lif]
  split <;> exact ⟨rfl, rfl, rfl, rfl⟩

/-- A strobe outside Booting and Isolated leaves the own-index record's mode in agreement with the station (R11, R27). -/
theorem strobeTaken_ownModeOk (p : Position) (inputs : Table 48 Sample) {s : State} (hb : s.stc.station ≠ .booting)
    (hi : s.stc.station ≠ .isolated) (h : ownModeOk s) : ownModeOk (strobeTaken p inputs s) := by
  obtain ⟨-, -, -, hstation, -⟩ := strobeTaken_station p inputs s
  obtain ⟨-, hmode, -⟩ := strobeTaken_lanes p inputs hb
  rw [if_neg hi] at hmode
  rw [ownModeOk] at h
  rw [ownModeOk, hstation, hmode]
  cases hst : s.stc.station with
  | booting => exact absurd hst hb
  | isolated => exact absurd hst hi
  | joining => rw [hst] at h; cases s.stc.joiningComplete <;> exact h
  | listening | contributing | silent => rw [hst] at h; exact h

theorem LaneTableOk.strobeTaken {s : State} (i : LaneTableOk s) (p : Position) (inputs : Table 48 Sample) :
    LaneTableOk (strobeTaken p inputs s) := by
  obtain ⟨-, -, hown, hmis4, hclean64, -⟩ := id i
  obtain ⟨-, -, -, hstation, -, hcomplete⟩ := strobeTaken_station p inputs s
  have quiet : (Machine.strobeTaken p inputs s).stc.joiningComplete = false := by
    rw [hcomplete]
    by_cases hj : s.stc.station = .joining
    · simp [hj]
    · simp [i.not_complete hj]
  by_cases hb : s.stc.station = .booting
  · have eq : Machine.strobeTaken p inputs s = strobeInBooting (classify s.rfr p) (takeStrobe p s) := by
      simp [Machine.strobeTaken, hb]
    rw [eq]
    exact i.congr (by simp [strobeInBooting_lif]) (by simp)
  · obtain ⟨hlanes, hmode, hmis, hclean⟩ := strobeTaken_lanes p inputs hb
    by_cases hi : s.stc.station = .isolated
    · rw [if_pos hi] at hlanes hmode
      rw [hi] at hstation
      exact laneTableOk_of_cleared hlanes (by rw [ownModeOk, hstation]; exact hmode) (by omega) (by omega) (by simp [quiet])
    · rw [if_neg hi] at hlanes
      exact i.setStation ⟨hlanes, hmis, hclean⟩ (by simp) (strobeTaken_ownModeOk p inputs hb hi hown) (by simp [quiet])

/-! ### A peer lane's arrival -/

/-- The record with the scope bits and the tile of an arrival's header (R15, R16). -/
def LaneRecord.withHeader (ws : Table 54 Word) (r : LaneRecord) : LaneRecord :=
  { r with scopes := scopeBitsOf (ws.get 1), needs := rowWithTile r.needs (markTile (ws.get 0)) (ws.get 2) }

/-- Taking the header writes the lane's record alone (R15, R16). -/
theorem storeHeader_eq (lane : LaneIx) (ws : Table 54 Word) (s : State) :
    storeHeader lane ws s = setLane s lane ((laneAt s lane).withHeader ws) := rfl

/-- Of the Link Interface, a lane's leaving Present writes the lane's record alone (R17). -/
theorem leavePresent_lif (lane : LaneIx) (s : State) :
    (leavePresent lane s).lif = (setLane s lane (laneAt s lane).dropped).lif := by
  simp [leavePresent, LaneRecord.dropped]

/-- The record a lane's leaving Present leaves is sound where its counts are. -/
theorem LaneTableOk.leavePresent {s : State} (i : LaneTableOk s) (lane : LaneIx) (r : LaneRecord) (hc : countsOk r) :
    LaneTableOk (leavePresent lane (Machine.setLane s lane r)) := by
  have stored : LaneTableOk (Machine.setLane s lane r.dropped) := i.setLane lane r.dropped hc fun _ => ⟨rfl, rfl⟩
  exact stored.of_lif (by rw [leavePresent_lif]; simp) (by simp)

/-- Taking a Present peer's contents keeps the Lane Table sound, where its messages do. -/
theorem LaneTableOk.takeContents (k : KeptByMessages LaneTableOk) {s : State} (i : LaneTableOk s) (lane : LaneIx)
    (straps : BitVec 4) (ws : Table 54 Word) (hn : lane ≠ s.stc.nodeId) (hp : (laneAt s lane).presence = .present) :
    LaneTableOk (takeContents lane straps ws s) := by
  obtain ⟨hcounts, -⟩ := id i
  have header : LaneTableOk (storeHeader lane ws s) := by
    rw [storeHeader_eq]
    exact i.setLane lane _ (hcounts lane) fun h => absurd h (by simp [LaneRecord.withHeader, hp, hn])
  unfold Machine.takeContents
  exact k.takeSlots _ _ _ _ _ (header.of_lif (by simp) (by simp))

/-- The arrival of a peer lane keeps the Lane Table sound (R12 to R17), where its messages do. -/
theorem LaneTableOk.peerArrival (k : KeptByMessages LaneTableOk) {s : State} (i : LaneTableOk s) (lane : LaneIx)
    (straps : BitVec 4) (v : Option (Table 54 Word)) (hn : lane ≠ s.stc.nodeId) :
    LaneTableOk (peerArrival lane straps v s) := by
  obtain ⟨hcounts, hempty, -⟩ := id i
  have counts := presenceStep_countsOk (laneAt s lane) (arrivalKind v) (hcounts lane)
  have quiet : ∀ r : LaneRecord, countsOk r → (laneAt s lane).presence ≠ .present → r.scopes = (laneAt s lane).scopes →
      r.needs = (laneAt s lane).needs → LaneTableOk (Machine.setLane s lane r) := by
    intro r hc hp hs hneeds
    exact i.setLane lane r hc fun _ => by rw [hs, hneeds]; exact hempty lane (.inl hp)
  have live : ∀ r : LaneRecord, countsOk r → r.presence = .present → LaneTableOk (Machine.setLane s lane r) :=
    fun r hc hp => i.setLane lane r hc fun h => by simp [hp, hn] at h
  have contents : ∀ r : LaneRecord, countsOk r → r.presence = .present →
      LaneTableOk (actOnPresence lane straps v .contentsTaken (Machine.setLane s lane r)) := by
    intro r hc hp
    cases v with
    | none => exact live r hc hp
    | some ws => exact LaneTableOk.takeContents k (live r hc hp) lane straps ws (by simpa using hn) (by simpa using hp)
  unfold Machine.peerArrival
  dsimp only
  revert counts
  refine presenceStep_cases (P := fun out => countsOk out.1 →
    LaneTableOk (actOnPresence lane straps v out.2 (Machine.setLane s lane out.1))) _ _
    (fun hp hc => quiet _ hc hp rfl rfl) (fun hp hc => quiet _ hc (by simp [hp]) rfl rfl)
    (fun hp hc => quiet _ hc (by simp [hp]) rfl rfl) (fun _ _ hc => contents _ hc rfl) (fun hp hc => contents _ hc hp)
    (fun hp _ hc => ?missed) (fun _ hc => i.leavePresent lane _ hc) (fun _ hc => ?lost)
  case missed => exact (live _ hc hp).of_lif (by simp [actOnPresence]) (by simp [actOnPresence])
  case lost => exact (i.leavePresent lane _ hc).of_lif (by simp [actOnPresence, losePeer]) (by simp [actOnPresence, losePeer])

/-! ### The own-index lane's arrival -/

/-- The Watched own record follows the presence rules and hands nothing on (R11). -/
theorem LaneTableOk.watchedArrival {s : State} (i : LaneTableOk s) (v : Option (Table 54 Word)) :
    LaneTableOk (watchedArrival v s) := by
  obtain ⟨hcounts, hempty, -⟩ := id i
  obtain ⟨hs, hneeds⟩ := presenceStep_contents (laneAt s s.stc.nodeId) (arrivalKind v)
  have stored := i.setLane s.stc.nodeId (presenceStep (laneAt s s.stc.nodeId) (arrivalKind v)).1
    (presenceStep_countsOk _ _ (hcounts _)) (fun _ => by rw [hs, hneeds]; exact hempty _ (.inr rfl))
  unfold Machine.watchedArrival
  dsimp only
  split
  · exact stored.decideListening
  · exact stored

/-- The readback counts may move within their bounds (R18, R19). -/
theorem LaneTableOk.setCounts {s : State} (i : LaneTableOk s) (m c : Nat) (hm : m ≤ 4) (hc : c ≤ 64) :
    LaneTableOk (s.setLif { s.lif with mismatch := m, cleanRun := c }) := by
  obtain ⟨hcounts, hempty, hmode, -, -, hjc⟩ := i
  exact ⟨hcounts, hempty, hmode, hm, hc, hjc⟩

/-- A clean readback keeps the Lane Table sound: it reports Joining complete in Joining alone (R19). -/
theorem LaneTableOk.cleanReadback {s : State} (i : LaneTableOk s) : LaneTableOk (cleanReadback s) := by
  obtain ⟨-, -, hmode, -, hclean, -⟩ := id i
  unfold Machine.cleanReadback
  dsimp only
  split
  · next hj =>
    have counted := i.setCounts 0 _ (Nat.zero_le _) (Nat.min_le_left 64 (s.lif.cleanRun + 1))
    exact counted.setStation ⟨rfl, rfl, rfl⟩ rfl hmode fun _ => hj
  · exact i.setCounts 0 _ (Nat.zero_le _) hclean

/-- A readback mismatch keeps the Lane Table sound (R18, R19). -/
theorem LaneTableOk.mismatchReadback {s : State} (i : LaneTableOk s) : LaneTableOk (mismatchReadback s) := by
  obtain ⟨-, -, -, -, hclean, -⟩ := id i
  have counted := i.setCounts (min 4 (s.lif.mismatch + 1)) (if s.stc.station = .joining then 0 else s.lif.cleanRun)
    (Nat.min_le_left _ _) (by split <;> omega)
  unfold Machine.mismatchReadback
  dsimp only
  split
  · exact counted.enterSilent _
  · exact counted

/-! ### Every step -/

/-- Every message keeps the Lane Table sound: a Station Reset clears it, no other message reaches it. -/
theorem laneTableOk_keptByMessages : KeptByMessages LaneTableOk where
  fault _ i := i.of_lif (by simp) (by simp)
  change _ _ _ _ _ i := i.of_lif (by simp) (by simp)
  bind _ _ _ _ _ _ i := i.of_lif (by simp) (by simp)
  query _ _ i := i.of_lif (by simp) (by simp)
  watch _ _ _ _ _ i := i.of_lif (by simp) (by simp)
  unwatch _ _ i := i.of_lif (by simp) (by simp)
  rearm _ _ i := i.of_lif (by simp) (by simp)
  clear _ _ i := i.of_lif (by simp) (by simp)
  announce _ i := i.of_lif (by simp) (by simp)
  reset straps s hf _ := by
    obtain ⟨-, hst, -, -, -, hjc, -⟩ := stationResetTaken_station straps s hf
    exact laneTableOk_of_reset _ (stationResetTaken_lif straps s) hst hjc
  reassembly _ _ _ i := i.of_lif (by simp) (by simp)

/-- Every operation of a step keeps the Lane Table sound. -/
theorem laneTableOk_keptBySteps : KeptBySteps LaneTableOk where
  toKeptByMessages := laneTableOk_keptByMessages
  queue _ _ i := i.of_lif rfl (by simp)
  powerOn _ _ _ := laneTableOk_of_reset none rfl rfl rfl
  pinAsserted s i := i.congr (by simp [pinAsserted]) (by simp)
  pinReset _ _ _ := laneTableOk_of_reset none rfl rfl rfl
  boot o _ hb i := i.bootReadEnds o hb
  strobe p inputs _ i := i.strobeTaken p inputs
  loss _ i := i.lossTaken
  peer lane straps v _ hn i := i.peerArrival laneTableOk_keptByMessages lane straps v hn
  watched v _ _ i := i.watchedArrival v
  clean _ i := i.cleanReadback
  mismatch _ _ i := i.mismatchReadback
  decide _ _ i := i.decideListening
  lock _ _ _ i := i.of_lif (by simp) (by simp)
  inputFault _ i := i.of_lif (by simp) (by simp)
  window _ i := i.of_lif (by simp) (by simp)
  ramp r s i := by
    unfold applyRamp
    split <;> split
    · exact i.of_lif (by simp) (by simp)
    · exact i
    · exact i.of_lif rfl (by simp)
    · exact i
  close _ _ i := i.of_lif (by simp) (by simp)

/-- Settles O23: the Lane Table's soundness is kept by each operation a step can be. -/
theorem stepKeepsLaneTableOk : Obligations.StepKeepsLaneTableOk :=
  fun s t i e => laneTableOk_keptBySteps.step s t i e

end Sys2Proof.Machine
end

section
/-! Commands complete, power-on, lane validity, and the arrival of a lane by its record (R5, R10 to R20, R25, R33). -/

namespace Sys2Proof.Machine

/-! ### Every command completes -/

@[simp] theorem unlessPinned_pending (f : State → State) (s : State) (h : (f s).pending = s.pending) :
    (unlessPinned f s).pending = s.pending := by
  unfold unlessPinned
  split
  · rfl
  · exact h

/-- A command taken or not, its choice leaves the queue where both outcomes do. -/
theorem ite_pending (p : Prop) [Decidable p] (t s : State) (h : t.pending = s.pending) :
    (if p then t else s).pending = s.pending := by
  split
  · exact h
  · rfl

@[simp] theorem applyRamp_pending (r : RampId) (s : State) : (applyRamp r s).pending = s.pending := by
  unfold applyRamp
  split <;> split <;> simp

/-- Every command has a next state, which leaves the queue as it stands. -/
theorem exec_completes (c : Instr) (s : State) : ∃ t, exec c s = .next t ∧ t.pending = s.pending := by
  cases c with
  | powerOn | pinReset => exact ⟨_, rfl, rfl⟩
  | resetPinAsserted | lockGained | lockLost => exact ⟨_, rfl, by simp⟩
  | strobe => exact ⟨_, rfl, by split <;> simp⟩
  | bootReadComplete | bootReadNoAnswer | loss | laneArrival | laneLost | laneConflict | joiningComplete | endOfListening
  | windowEnd | pendingSetApplication | setClose => exact ⟨_, rfl, ite_pending _ _ _ (by simp)⟩
  | stationReset | stripSet | stripQuery | groupLevel | bind | watch | unwatch | rearm | clearConditions | rollCall =>
    exact ⟨_, rfl, unlessPinned_pending _ _ (by simp)⟩

/-- Settles O2: each command's operation leaves the queue, and a step on an empty queue is the state itself. -/
theorem commandsCompleteAndQueueIdles : Obligations.CommandsCompleteAndQueueIdles := by
  refine ⟨exec_completes, fun s h => ?_⟩
  rw [step, h]

/-! ### The values after a power-on -/

theorem reset_laneAt (n : LaneIx) : laneAt State.reset n = LaneRecord.cleared := Table.get_fill _ _
theorem reset_reassemblyAt (n : LaneIx) : reassemblyAt State.reset n = .idle := Table.get_fill _ _
theorem reset_collectionAt (n : LaneIx) : collectionAt State.reset n = BindCollection.cleared := Table.get_fill _ _
theorem reset_channelAt (c : Chan) : channelAt State.reset c = ChannelRecord.default c := Table.get_make _ _
theorem reset_alignAt (c : Chan) : alignAt State.reset c = .normal 0 := Table.get_fill _ _
theorem reset_pathAt (c : Chan) : pathAt State.reset c = ChannelPath.default c := Table.get_make _ _
theorem reset_ownNeed (b : Bus) : State.reset.alu.ownNeeds.get b = none := Table.get_fill _ _
theorem reset_aligned (b : Bus) : State.reset.alu.aligned.get b = 0 := Table.get_fill _ _
theorem reset_group (g : GroupIx) : State.reset.gsu.groups.get g = { master := 0, mute := false, solo := false } :=
  Table.get_fill _ _
theorem reset_ownScope (sc : ScopeIx) : State.reset.gsu.ownScopes.get sc = false := Table.get_fill _ _
theorem reset_linkScope (sc : ScopeIx) : State.reset.gsu.linkScopes.get sc = false := Table.get_fill _ _
theorem reset_gated (c : Chan) : State.reset.gsu.gated.get c = false := Table.get_fill _ _
theorem reset_slot (o : SlotIx) : State.reset.mxd.slots.get o =
    { bus := none, delay := 0, ramp := { state := .held, k := 0 }, pending := none } := Table.get_fill _ _
theorem reset_entry (e : EntryIx) : State.reset.mtu.entries.get e = none := Table.get_fill _ _

/-- Settles O3: a power-on writes the reset state, with the node ID of the straps and the queue kept. -/
theorem powerOnGivesPowerOnValues : Obligations.PowerOnGivesPowerOnValues := by
  intro straps s
  refine ⟨powerOnReset straps s, rfl, ⟨rfl, rfl, rfl, rfl, rfl, rfl, rfl⟩, reset_laneAt, ⟨rfl, rfl, rfl, rfl⟩, rfl,
    ⟨reset_reassemblyAt, rfl, rfl, rfl, rfl, rfl⟩, ⟨reset_collectionAt, rfl, rfl⟩, reset_channelAt,
    ⟨reset_group, reset_ownScope, reset_linkScope, reset_gated⟩, ⟨reset_alignAt, reset_ownNeed, reset_aligned⟩,
    reset_pathAt, ⟨fun b => Table.get_fill _ b, rfl, fun o => Table.get_fill _ o, fun p => Table.get_fill _ p⟩,
    ⟨reset_entry, rfl, rfl⟩, rfl⟩

/-! ### The reset state meets the invariants -/

theorem reset_not_soloed (c : Chan) : ¬ Soloed State.reset c := by
  simp [Soloed, reset_channelAt, ChannelRecord.default]

theorem reset_soloOk : SoloOk State.reset := by
  refine ⟨fun sc => ?_, fun sc => ?_, fun c => ?_⟩
  · simp [reset_ownScope, reset_not_soloed]
  · simp [reset_linkScope, reset_ownScope, reset_laneAt, LaneRecord.cleared]
  · simp [reset_gated, reset_linkScope]

theorem reset_sends_nowhere (b : Bus) (d : Depth) : ¬ SendsAtDepth State.reset b d := by
  simp [SendsAtDepth, reset_channelAt, ChannelRecord.default]

theorem reset_no_need (b : Bus) (d : Depth) : ¬ NeedHeard State.reset b d := by
  simp [NeedHeard, reset_ownNeed, reset_laneAt, LaneRecord.cleared]

theorem reset_alignmentOk : AlignmentOk State.reset := by
  refine ⟨fun c => ?_, fun b => ⟨fun d h => ?_, fun d h => absurd h (reset_sends_nowhere b d)⟩,
    fun b => ⟨fun d h => absurd h (reset_no_need b d), .inr ⟨reset_aligned b, reset_no_need b⟩⟩⟩
  · simp [ChannelDepthOk, reset_channelAt, reset_alignAt, ChannelRecord.default]
  · simp [reset_ownNeed] at h

theorem reset_delaysOk : DelaysOk State.reset := by
  refine ⟨fun c k _ => ?_, fun c k b d h _ => ?_, fun o b h => ?_⟩
  · simp [reset_pathAt, ChannelPath.default, effectiveDelay, PendingSet.empty]
  · simp [reset_channelAt, ChannelRecord.default] at h
  · simp [reset_slot] at h

theorem reset_rampsOk : RampsOk State.reset := by
  refine ⟨fun c => ?_, fun o => ?_⟩
  · simp [reset_pathAt, ChannelPath.default, rampOk, quiet]
  · simp [reset_slot, rampOk, quiet]

theorem reset_metersOk : MetersOk State.reset := by
  refine ⟨fun e w h => ?_, fun e f w x h _ _ => ?_, fun e w h _ => ?_, fun _ => reset_entry, by decide⟩
  all_goals simp [reset_entry] at h

theorem reset_schedulerOk : SchedulerOk State.reset := by
  refine ⟨List.Pairwise.nil, by decide, fun n => ?_⟩
  rw [reset_collectionAt]
  decide

/-- Settles O60: the reset state meets the nine invariants, one by one. -/
theorem resetMeetsInvariants : Obligations.ResetMeetsInvariants :=
  ⟨⟨nofun, rfl, rfl⟩, laneTableOk_of_reset none rfl rfl rfl, reset_schedulerOk, reset_soloOk, reset_alignmentOk,
    reset_delaysOk, reset_rampsOk, ⟨by decide, by decide, by decide, nofun⟩, reset_metersOk⟩

/-! ### Lane validity (R4, R5) -/

/-- A bit field as a number: the bits above its lowest one, as many as it has. -/
theorem field_eq (w : Word) (lo len : Nat) : field w lo len = w.toNat / 2 ^ lo % 2 ^ len := by
  simp [field, BitVec.extractLsb'_toNat, Nat.shiftRight_eq_div_pow]

theorem addHalf_eq (a b : Nat) : addHalf a b = if 0xFFFF < a + b then a + b - 0x10000 + 1 else a + b := by
  unfold addHalf
  split <;> split <;> omega

/-- The end-around sum runs over the half-words one by one (R4). -/
theorem halfSum_eq (ws : List Word) : halfSum ws =
    (ws.flatMap fun w => [field w 16 16, field w 0 16]).foldl
      (fun sum half => if 0xFFFF < sum + half then sum + half - 0x10000 + 1 else sum + half) 0 := by
  simp only [halfSum, List.foldl_flatMap, List.foldl_cons, List.foldl_nil, addHalf_eq]

theorem checkValue_le (ws : List Word) : checkValue ws ≤ 0xFFFF := Nat.sub_le _ _

/-- A word equals a half-word value where its low half does and its high half is 0. -/
theorem toNat_eq_half_iff (w : Word) (n : Nat) (hn : n ≤ 0xFFFF) :
    w.toNat = n ↔ field w 0 16 = n ∧ field w 16 16 = 0 := by
  have := w.isLt
  rw [field_eq, field_eq]
  omega

theorem wordsValid_iff (lane : LaneIx) (ws : Table 54 Word) : wordsValid lane ws = true ↔
    field (ws.get 53) 0 16 = checkValue ws.cells ∧ field (ws.get 53) 16 16 = 0 ∧ markSync (ws.get 0) = 0x5C ∧
      markNode (ws.get 0) = lane.val ∧ (markState (ws.get 0) = 1 ∨ markState (ws.get 0) = 2) := by
  simp only [wordsValid, Bool.and_eq_true, Bool.or_eq_true, decide_eq_true_eq,
    toNat_eq_half_iff _ _ (checkValue_le ws.cells), and_assoc]

theorem validWords_words (lane : LaneIx) (ws : Table 54 Word) :
    validWords lane (.words ws) = some ws ↔ wordsValid lane ws = true := by
  simp [validWords]

/-- Valid words are those received, and satisfy R5. -/
theorem validWords_some {lane : LaneIx} {rx : Reception} {ws : Table 54 Word} (h : validWords lane rx = some ws) :
    rx = .words ws ∧ wordsValid lane ws = true := by
  cases rx with
  | undriven => cases h
  | collided => cases h
  | words vs =>
    obtain ⟨hv, rfl⟩ : wordsValid lane vs = true ∧ vs = ws := by simpa [validWords] using h
    exact ⟨rfl, hv⟩

/-- An arrival reads its lane only through the valid words. -/
theorem laneArrives_congr {lane : LaneIx} {rx rx' : Reception} (h : validWords lane rx = validWords lane rx')
    (straps : BitVec 4) (s : State) : laneArrives lane rx straps s = laneArrives lane rx' straps s := by
  simp only [laneArrives, h]

/-- Settles O16: validity is R5 condition by condition, and an arrival reads nothing of an invalid lane. -/
theorem laneValidityIsR5 : Obligations.LaneValidityIsR5 := by
  refine ⟨fun ws => ?_, fun lane ws => ?_, fun _ => ⟨rfl, rfl⟩, fun _ _ _ h => (validWords_some h).1, ?_⟩
  · rw [checkValue, halfSum_eq]
  · rw [validWords_words, wordsValid_iff]; rfl
  · intro lane rx straps s h
    have arrives := laneArrives_congr (rx' := .undriven) h straps s
    show Host.Outcome.next _ = Host.Outcome.next _
    rw [arrives]

/-! ### Taking an arrival -/

theorem exec_laneArrival {s : State} (lane : LaneIx) (rx : Reception) (straps : BitVec 4) (hpin : s.resetPin = false)
    (hf : takesFrames s = true) (hr : s.lif.receiving = true) :
    exec (.laneArrival lane rx straps) s = .next (laneArrives lane rx straps s) := by
  show Host.Outcome.next _ = _
  rw [if_pos (by simp [hearsLanes, hpin, hf, hr])]

theorem arrivalKind_some (ws : Table 54 Word) :
    arrivalKind (some ws) = if markState (ws.get 0) = 2 then .contributing else .restarted := rfl

theorem arrivalKind_invalid {v : Option (Table 54 Word)} (h : v = none) : arrivalKind v = .invalid := by rw [h]; rfl

theorem arrivalKind_valid (ws : Table 54 Word) : arrivalKind (some ws) ≠ .invalid := by
  rw [arrivalKind_some]
  split <;> nofun

theorem arrivalKind_contributing {ws : Table 54 Word} (h : markState (ws.get 0) = 2) :
    arrivalKind (some ws) = .contributing := by rw [arrivalKind_some, if_pos h]

theorem arrivalKind_restarted {ws : Table 54 Word} (h : markState (ws.get 0) ≠ 2) :
    arrivalKind (some ws) = .restarted := by rw [arrivalKind_some, if_neg h]

theorem arrivalKind_contributing_iff (ws : Table 54 Word) :
    arrivalKind (some ws) = .contributing ↔ markState (ws.get 0) = 2 := by
  by_cases h : markState (ws.get 0) = 2
  · simp [h, arrivalKind_contributing]
  · simp [h, arrivalKind_restarted]

theorem laneArrives_peer {s : State} {lane : LaneIx} (hn : lane ≠ s.stc.nodeId) (rx : Reception) (straps : BitVec 4) :
    laneArrives lane rx straps s = peerArrival lane straps (validWords lane rx) s := by
  rw [laneArrives, if_neg hn]

theorem laneArrives_own (rx : Reception) (straps : BitVec 4) (s : State) :
    laneArrives s.stc.nodeId rx straps s = ownArrival (validWords s.stc.nodeId rx) s := by
  rw [laneArrives, if_pos rfl]

/-- A peer's arrival stores the record the presence rules give and acts on their event. -/
theorem peerArrival_eq {s : State} {lane : LaneIx} {v : Option (Table 54 Word)} {r : LaneRecord} {e : PresenceEvent}
    (straps : BitVec 4) (h : presenceStep (laneAt s lane) (arrivalKind v) = (r, e)) :
    peerArrival lane straps v s = actOnPresence lane straps v e (setLane s lane r) := by
  rw [peerArrival, h]

theorem listeningDone_iff (s : State) :
    listeningDone s = true ↔ s.stc.station = .listening ∧ s.stc.listeningCount = 128 := by
  simp [listeningDone]

theorem listeningDone_setLane (s : State) (n : LaneIx) (r : LaneRecord) :
    listeningDone (setLane s n r) = listeningDone s := by
  simp [listeningDone]

/-- The Watched own record takes the record the presence rules give, and hands nothing on (R11). -/
theorem laneArrives_watched {s : State} (rx : Reception) (straps : BitVec 4) (hw : s.lif.ownMode = .watched)
    (hd : ¬ (s.stc.station = .listening ∧ s.stc.listeningCount = 128)) :
    laneArrives s.stc.nodeId rx straps s = setLane s s.stc.nodeId
      (presenceStep (laneAt s s.stc.nodeId) (arrivalKind (validWords s.stc.nodeId rx))).1 := by
  have hnd : ¬ listeningDone s = true := fun h => hd ((listeningDone_iff s).mp h)
  rw [laneArrives_own, ownArrival, hw]
  simp only [watchedArrival, listeningDone_setLane, if_neg hnd]

/-- An arrival that brings nothing about beyond the record stores the record (R11 to R13). -/
theorem laneArrives_of_nothing {s : State} {lane : LaneIx} {rx : Reception} {r : LaneRecord} (straps : BitVec 4)
    (hl : lane ≠ s.stc.nodeId ∨
      s.lif.ownMode = .watched ∧ ¬ (s.stc.station = .listening ∧ s.stc.listeningCount = 128))
    (h : presenceStep (laneAt s lane) (arrivalKind (validWords lane rx)) = (r, .nothing)) :
    laneArrives lane rx straps s = setLane s lane r := by
  by_cases hn : lane = s.stc.nodeId
  · subst hn
    obtain hne | ⟨hw, hd⟩ := hl
    · exact absurd rfl hne
    · rw [laneArrives_watched rx straps hw hd, h]
  · rw [laneArrives_peer hn, peerArrival_eq straps h]; rfl

/-- Settles O18: before Present an arrival moves the record by R12 and R13, case by case. -/
theorem arrivalBeforePresent : Obligations.ArrivalBeforePresent := by
  intro lane rx straps s hpin hf hr hl
  rw [exec_laneArrival lane rx straps hpin hf hr]
  refine ⟨fun hp => ⟨fun ws hv => ?first, fun hv => ?stays⟩,
    fun hp hrun => ⟨fun ws hv hc => ?counted, fun ws hv h16 hst => ?present, fun hv => ?dropped⟩⟩
  case first => rw [laneArrives_of_nothing straps hl (hv ▸ presenceStep_absent_valid hp (arrivalKind_valid ws))]
  case stays => rw [laneArrives_of_nothing straps hl (arrivalKind_invalid hv ▸ presenceStep_absent_invalid hp)]
  case counted =>
    have hnot : ¬ (16 ≤ (laneAt s lane).validRun ∧ arrivalKind (some ws) = .contributing) := by
      rw [arrivalKind_contributing_iff]
      exact fun ⟨h, h'⟩ => hc ⟨Nat.le_antisymm hrun h, h'⟩
    rw [laneArrives_of_nothing straps hl (hv ▸ presenceStep_joining_counts hp (arrivalKind_valid ws) hnot)]
  case present =>
    have hstep : presenceStep (laneAt s lane) (arrivalKind (validWords lane rx)) =
        ({ laneAt s lane with presence := .present, invalidRun := 0 }, .contentsTaken) := by
      rw [hv, arrivalKind_contributing hst, presenceStep_joining_present hp h16.ge]
    by_cases hn : lane = s.stc.nodeId
    · subst hn
      obtain hne | ⟨hw, hd⟩ := hl
      · exact absurd rfl hne
      · rw [laneArrives_watched rx straps hw hd, hstep]
        simp only [if_true]
    · rw [laneArrives_peer hn, peerArrival_eq straps hstep, hv]
      simp only [hn, if_false]
      rfl
  case dropped => rw [laneArrives_of_nothing straps hl (arrivalKind_invalid hv ▸ presenceStep_joining_invalid hp)]

/-- Settles O19: while Present an arrival moves the record and acts by R14, case by case. -/
theorem arrivalWhilePresent : Obligations.ArrivalWhilePresent := by
  refine ⟨?peer, ?own⟩
  case peer =>
    intro lane rx straps s hpin hf hr hn hp
    rw [exec_laneArrival lane rx straps hpin hf hr, laneArrives_peer hn]
    refine ⟨fun ws hv hst => ?_, fun ws hv hst => ?_, fun hv hinv => ?_, fun hv hinv => ?_⟩ <;> rw [hv]
    · rw [peerArrival_eq straps (arrivalKind_contributing hst ▸ presenceStep_present_contributing hp)]; rfl
    · have hne : markState (ws.get 0) ≠ 2 := by omega
      rw [peerArrival_eq straps (arrivalKind_restarted hne ▸ presenceStep_present_restarted hp)]; rfl
    · rw [peerArrival_eq straps (presenceStep_present_missed hp hinv)]; rfl
    · rw [peerArrival_eq straps (presenceStep_present_lost hp hinv.ge)]; rfl
  case own =>
    intro rx straps s hpin hf hr hw hd hp
    rw [exec_laneArrival _ rx straps hpin hf hr, laneArrives_watched rx straps hw hd]
    refine ⟨fun ws hv hst => ?_, fun ws hv hst => ?_, fun hv hinv => ?_, fun hv hinv => ?_⟩ <;> rw [hv]
    · rw [arrivalKind_contributing hst, presenceStep_present_contributing hp]
    · rw [arrivalKind_restarted (by omega), presenceStep_present_restarted hp]
    · exact congrArg (fun out => Host.Outcome.next (setLane s s.stc.nodeId out.1)) (presenceStep_present_missed hp hinv)
    · exact congrArg (fun out => Host.Outcome.next (setLane s s.stc.nodeId out.1)) (presenceStep_present_lost hp hinv.ge)

end Sys2Proof.Machine
end

section
/-! The own lane: readback, the end of Listening, and the lane events taken by themselves (R14, R18 to R20, R25, R30). -/

namespace Sys2Proof.Machine

/-! ### Arrivals that are not taken -/

theorem hearsLanes_eq_false {s : State} (h : s.stc.station = .booting ∨ s.stc.station = .isolated) :
    hearsLanes s = false := by
  rcases h with h | h <;> simp [hearsLanes, takesFrames, h]

/-- An arrival that is not heard, or of a frame that is not received, changes nothing (R2, R21). -/
theorem exec_laneArrival_untaken {s : State} (lane : LaneIx) (rx : Reception) (straps : BitVec 4)
    (h : hearsLanes s = false ∨ s.lif.receiving = false) : exec (.laneArrival lane rx straps) s = .next s := by
  show Host.Outcome.next _ = _
  rw [if_neg (by rcases h with h | h <;> simp [h])]

/-- The own lane is read back only while it is driven: else the arrival changes nothing (R20, R30). -/
theorem ownArrival_undriving {s : State} (v : Option (Table 54 Word)) (hm : s.lif.ownMode = .own)
    (hd : drivesLane s = false) : ownArrival v s = s := by
  simp [ownArrival, hm, hd]

theorem ownArrival_readback {s : State} {driven : Table 54 Word} (v : Option (Table 54 Word)) (hm : s.lif.ownMode = .own)
    (hd : drivesLane s = true) (h : s.lif.driven = some driven) : ownArrival v s = readback v (some driven) s := by
  simp [ownArrival, hm, hd, h]

theorem drivesLane_eq_true {s : State} (h : s.stc.station = .joining ∨ s.stc.station = .contributing) :
    drivesLane s = true := by
  rcases h with h | h <;> simp [drivesLane, h]

theorem takesFrames_of_drivesLane {s : State} (h : s.stc.station = .joining ∨ s.stc.station = .contributing) :
    takesFrames s = true := by
  rcases h with h | h <;> simp [takesFrames, h]

/-! ### Readback (R18, R19) -/

/-- A clean readback (R18, R19). -/
theorem cleanReadback_eq (s : State) : cleanReadback s = { s with
    lif := { s.lif with
      mismatch := 0
      cleanRun := if s.stc.station = .joining then min 64 (s.lif.cleanRun + 1) else s.lif.cleanRun }
    stc := { s.stc with
      joiningComplete := s.stc.joiningComplete || decide (s.stc.station = .joining) && decide (63 ≤ s.lif.cleanRun) } } := by
  have h64 : min 64 (s.lif.cleanRun + 1) = 64 ↔ 63 ≤ s.lif.cleanRun := by omega
  by_cases hj : s.stc.station = .joining
  · simp [cleanReadback, hj, h64, State.setLif, State.setStc]
  · simp [cleanReadback, hj, State.setLif]

/-- The entry to Silent (R30, R35, R154). -/
theorem enterSilent_eq (cause : StopCause) (s : State) : enterSilent cause s = { s with
    stc := { s.stc with
      station := .silent, joiningComplete := false
      stop := { cause := cause, position := s.rfr.position, left := stateLeftOf s.stc.station } }
    mse := { s.mse with inProgress := none } } := rfl

/-- The readback counts after a mismatch (R18, R19). -/
def mismatchCounted (s : State) : State :=
  s.setLif { s.lif with
    mismatch := min 4 (s.lif.mismatch + 1), cleanRun := if s.stc.station = .joining then 0 else s.lif.cleanRun }

/-- A mismatch is counted, and the fourth in a row enters Silent (R18). -/
theorem mismatchReadback_eq (s : State) : mismatchReadback s =
    if 3 ≤ s.lif.mismatch then enterSilent .laneConflict (mismatchCounted s) else mismatchCounted s := by
  have h4 : min 4 (s.lif.mismatch + 1) = 4 ↔ 3 ≤ s.lif.mismatch := by omega
  simp only [mismatchReadback, mismatchCounted, Config.conflictRun, h4]

/-- Settles O22: the readback of a driven lane by its two outcomes, and the arrivals that change nothing. -/
theorem ownLaneReadback : Obligations.OwnLaneReadback := by
  refine ⟨fun lane rx straps s h => ?_, fun rx straps s hst hm => ?_, ?_⟩
  · refine exec_laneArrival_untaken lane rx straps ?_
    rcases h with h | h | h
    · exact .inl (hearsLanes_eq_false (.inl h))
    · exact .inl (hearsLanes_eq_false (.inr h))
    · exact .inr h
  · show Host.Outcome.next _ = _
    rw [laneArrives_own, ownArrival_undriving _ hm (by simp [drivesLane, hst]), ite_self]
  · intro rx straps driven s hpin hr hm hst hdriven hmis _
    rw [exec_laneArrival _ rx straps hpin (takesFrames_of_drivesLane hst) hr, laneArrives_own,
      ownArrival_readback _ hm (drivesLane_eq_true hst) hdriven, readback]
    refine ⟨fun hv => ?_, fun hv hlt => ?_, fun hv h3 => ?_⟩
    · rw [if_pos hv, cleanReadback_eq]
      simp only [decide_eq_true_eq]
    · have hmin : min 4 (s.lif.mismatch + 1) = s.lif.mismatch + 1 := by omega
      rw [if_neg hv, mismatchReadback_eq, if_neg (by omega), mismatchCounted, hmin]
      simp only [decide_eq_true_eq]
      rfl
    · rw [if_neg hv, mismatchReadback_eq, if_pos h3.ge, enterSilent_eq]
      simp only [mismatchCounted, h3, decide_eq_true_eq]
      rfl

/-! ### The end of Listening (R25, R26) -/

theorem laneAt_enterJoining (s : State) (n : LaneIx) : laneAt (enterJoining s) n =
    if n = s.stc.nodeId then { laneAt s s.stc.nodeId with presence := .absent, validRun := 0, invalidRun := 0 }
    else laneAt s n := laneAt_setLane s n s.stc.nodeId _

theorem decideListening_absent {s : State} (h : (laneAt s s.stc.nodeId).presence = .absent) :
    decideListening s = enterJoining s := by
  simp [decideListening, h]

theorem decideListening_heard {s : State} (h : (laneAt s s.stc.nodeId).presence ≠ .absent) :
    decideListening s = enterSilent .nodeInUse s := by
  unfold decideListening
  split
  · next ha => exact absurd ha h
  · rfl
  · rfl

/-- The presence rules leave a record Absent exactly at an invalid arrival that is not one of a Present lane's first fifteen. -/
theorem presenceStep_absent_iff (r : LaneRecord) (v : Option (Table 54 Word)) :
    (presenceStep r (arrivalKind v)).1.presence = .absent ↔ v = none ∧ (r.presence = .present → 15 ≤ r.invalidRun) := by
  cases v with
  | none =>
    cases hp : r.presence with
    | absent => simp [arrivalKind, presenceStep_absent_invalid hp, hp]
    | joining => simp [arrivalKind, presenceStep_joining_invalid hp]
    | present =>
      by_cases hc : r.invalidRun < 15
      · simp [arrivalKind, presenceStep_present_missed hp hc, hp, hc]
      · have hle : 15 ≤ r.invalidRun := by omega
        simp [arrivalKind, presenceStep_present_lost hp hle, hle]
  | some ws =>
    have hk := arrivalKind_valid ws
    generalize arrivalKind (some ws) = k at hk
    have never : (presenceStep r k).1.presence ≠ .absent := by
      cases hp : r.presence with
      | absent => simp [presenceStep_absent_valid hp hk]
      | joining =>
        by_cases hc : 16 ≤ r.validRun ∧ k = .contributing
        · obtain ⟨hrun, rfl⟩ := hc
          simp [presenceStep_joining_present hp hrun]
        · simp [presenceStep_joining_counts hp hk hc, hp]
      | present =>
        cases k with
        | invalid => exact absurd rfl hk
        | restarted => simp [presenceStep_present_restarted hp]
        | contributing => simp [presenceStep_present_contributing hp, hp]
    simp [never]

/-- A record the presence rules leave Absent has both counts 0 (R12 to R14). -/
theorem presenceStep_of_absent {r : LaneRecord} {k : ArrivalKind} (h : (presenceStep r k).1.presence = .absent) :
    (presenceStep r k).1 = { r with presence := .absent, validRun := 0, invalidRun := 0 } := by
  revert h
  refine presenceStep_cases
    (P := fun out => out.1.presence = .absent → out.1 = { r with presence := .absent, validRun := 0, invalidRun := 0 }) r k
    (fun _ _ => rfl) (fun _ => nofun) (fun hp h => ?_) (fun _ _ => nofun) (fun hp h => ?_) (fun hp _ h => ?_)
    (fun _ => nofun) (fun _ _ => rfl)
  all_goals simp [hp] at h

/-- The arrival of the Watched own lane in the 128th Listening frame stores the record and decides by it (R11, R25). -/
theorem laneArrives_watched_done {s : State} (rx : Reception) (straps : BitVec 4) (hw : s.lif.ownMode = .watched)
    (hst : s.stc.station = .listening) (hc : s.stc.listeningCount = 128) :
    laneArrives s.stc.nodeId rx straps s = decideListening (setLane s s.stc.nodeId
      (presenceStep (laneAt s s.stc.nodeId) (arrivalKind (validWords s.stc.nodeId rx))).1) := by
  have hd : listeningDone s = true := (listeningDone_iff s).mpr ⟨hst, hc⟩
  rw [laneArrives_own, ownArrival, hw]
  simp only [watchedArrival, listeningDone_setLane, if_pos hd]

/-! ### The lane events by themselves -/

/-- LANE_LOST of a peer lane one short of its loss is the invalid arrival that loses it (R14). -/
theorem exec_laneLost_peer {s : State} {lane : LaneIx} (hpin : s.resetPin = false) (hf : takesFrames s = true)
    (hn : lane ≠ s.stc.nodeId) (hp : (laneAt s lane).presence = .present) (hinv : (laneAt s lane).invalidRun = 15) :
    exec (.laneLost lane) s = .next (losePeer lane
      (setLane s lane { laneAt s lane with presence := .absent, validRun := 0, invalidRun := 0 })) := by
  have step : presenceStep (laneAt s lane) (arrivalKind (validWords lane .undriven)) = _ :=
    presenceStep_present_lost hp hinv.ge
  show Host.Outcome.next _ = _
  rw [if_pos (by simp [hearsLanes, lossDue, hpin, hf, hp, hinv, hn]), laneArrives_peer hn, peerArrival_eq 0 step]
  rfl

/-- LANE_CONFLICT one short of it is the fourth mismatch (R18). -/
theorem exec_laneConflict {s : State} (hpin : s.resetPin = false)
    (hst : s.stc.station = .joining ∨ s.stc.station = .contributing) (h3 : s.lif.mismatch = 3) :
    exec .laneConflict s = .next (enterSilent .laneConflict (mismatchCounted s)) := by
  show Host.Outcome.next _ = _
  rw [if_pos (by simp [hearsLanes, hpin, takesFrames_of_drivesLane hst, drivesLane_eq_true hst, h3]), mismatchReadback_eq,
    if_pos h3.ge]

/-- JOINING_COMPLETE one short of it is the 64th clean readback (R19). -/
theorem exec_joiningComplete {s : State} (hpin : s.resetPin = false) (hst : s.stc.station = .joining)
    (h63 : s.lif.cleanRun = 63) : exec .joiningComplete s = .next (cleanReadback s) := by
  show Host.Outcome.next _ = _
  rw [if_pos (by simp [hpin, hst, h63])]

/-- END_OF_LISTENING at the 128th Listening frame decides by the record as it stands (R25). -/
theorem exec_endOfListening {s : State} (hpin : s.resetPin = false) (hst : s.stc.station = .listening)
    (hc : s.stc.listeningCount = 128) : exec .endOfListening s = .next (decideListening s) := by
  show Host.Outcome.next _ = _
  rw [if_pos (by simp [hpin, listeningDone, hst, hc])]

/-- Settles O24: each event by itself is the operation of its cause, and the 128th Listening arrival decides by the record it
leaves. -/
theorem laneEventsTakenAlone : Obligations.LaneEventsTakenAlone := by
  refine ⟨fun lane s hpin hf hn hp hinv => exec_laneLost_peer hpin hf hn hp hinv, fun s hpin hst h3 => ?conflict,
    fun s hpin hst h63 => ?complete, fun s hpin hst hc => ⟨fun ha => ?joins, fun ha => ?stops⟩,
    fun rx straps s hpin hr hst hc hw => ?last⟩
  case conflict =>
    refine ⟨_, exec_laneConflict hpin hst h3, ?_, rfl⟩
    simp [mismatchCounted, h3]
  case complete =>
    rw [exec_joiningComplete hpin hst h63, cleanReadback_eq]
    simp [hst, h63]
  case joins =>
    refine ⟨_, exec_endOfListening hpin hst hc, ?_⟩
    rw [decideListening_absent ha]
    exact ⟨rfl, rfl, rfl, rfl, rfl, fun n hn => by rw [laneAt_enterJoining, if_neg hn], rfl⟩
  case stops =>
    rw [exec_endOfListening hpin hst hc, decideListening_heard ha, enterSilent_eq, hst]
    rfl
  case last =>
    have hf : takesFrames s = true := by simp [takesFrames, hst]
    have absent := presenceStep_absent_iff (laneAt s s.stc.nodeId) (validWords s.stc.nodeId rx)
    refine ⟨_, exec_laneArrival _ rx straps hpin hf hr, ?_⟩
    rw [laneArrives_watched_done rx straps hw hst hc, ← absent]
    generalize hstep : presenceStep (laneAt s s.stc.nodeId) (arrivalKind (validWords s.stc.nodeId rx)) = out
    have others : ∀ n, n ≠ s.stc.nodeId → laneAt (setLane s s.stc.nodeId out.1) n = laneAt s n :=
      fun n hn => laneAt_setLane_ne s hn _
    by_cases ha : out.1.presence = .absent
    · have hrec : out.1 = { laneAt s s.stc.nodeId with presence := .absent, validRun := 0, invalidRun := 0 } := by
        rw [← hstep] at ha ⊢; exact presenceStep_of_absent ha
      rw [decideListening_absent (by simpa using ha)]
      refine ⟨fun n hn => ?_, fun _ => ⟨rfl, ?_, rfl⟩, fun h => absurd ha h⟩
      · rw [laneAt_enterJoining, if_neg (by simpa using hn), others n hn]
      · rw [laneAt_enterJoining, if_pos (by simp), hrec]
        simp
    · rw [decideListening_heard (by simpa using ha)]
      have lanes : ∀ n, laneAt (enterSilent .nodeInUse (setLane s s.stc.nodeId out.1)) n =
          laneAt (setLane s s.stc.nodeId out.1) n := fun _ => rfl
      refine ⟨fun n hn => by rw [lanes, others n hn], fun h => absurd h ha, fun _ => ⟨?_, ?_⟩⟩
      · simpa [lanes] using ha
      · simp only [enterSilent_eq, setLane_keeps, hst]
        rfl

end Sys2Proof.Machine
end

section
/-! What a settling leaves beside the alignment state, a lane's leaving Present, and the contents of a taken arrival
(R15 to R17, R84, R96 to R98, R125, R136). -/

namespace Sys2Proof.Machine

/-! ### What a settling writes (R96 to R98) -/

/-- Of the Station Controller a report writes the flags alone (R177). -/
theorem raiseIf_stc (b : Bool) (c : Condition) (s : State) :
    (raiseIf b c s).stc = { s.stc with conditions := (raiseIf b c s).stc.conditions } := by
  unfold raiseIf
  split
  · rw [raise_eq]; rfl
  · rfl

theorem settle_stc (s : State) : (settle s).stc = { s.stc with conditions := (settle s).stc.conditions } := by
  rw [settle, raiseIf_stc]; simp

theorem settle_keeps_flags (s : State) : s.stc.conditions &&& (settle s).stc.conditions = s.stc.conditions := by
  simpa [settle] using raiseIf_keeps_flags (settled s).2 .overdepth (postDelays (s.setAlu (settled s).1))

theorem settle_mse (s : State) : (settle s).mse = { s.mse with notices := (settle s).mse.notices } := by
  rw [settle, raiseIf_mse]; simp

/-- A delay item leaves a channel's history and its source in force (R102). -/
theorem postChannelDelays_keeps (s : State) (c : Chan) :
    (postChannelDelays s c).history = (pathAt s c).history ∧ (postChannelDelays s c).source = (pathAt s c).source := by
  unfold postChannelDelays
  generalize pathAt s c = p0
  induction List.finRange 8 using List.reverseRecOn with
  | nil => exact ⟨rfl, rfl⟩
  | append_singleton l k ih =>
    rw [List.foldl_append, List.foldl_cons, List.foldl_nil]
    split
    · exact ih
    · exact ih

/-- A settling leaves every channel's history and source in force. -/
theorem settle_path (s : State) (c : Chan) :
    (pathAt (settle s) c).history = (pathAt s c).history ∧ (pathAt (settle s) c).source = (pathAt s c).source := by
  have path : pathAt (settle s) c = postChannelDelays (s.setAlu (settled s).1) c := by
    simp [pathAt, settle, postDelays]
  rw [path]
  exact postChannelDelays_keeps _ c

/-- A settling leaves the bus histories, the open totals and the outputs. -/
theorem settle_mxd (s : State) : (settle s).mxd.busHistory = s.mxd.busHistory ∧ (settle s).mxd.totals = s.mxd.totals ∧
    (settle s).mxd.outputs = s.mxd.outputs := by
  simp [settle, postDelays]

/-! ### The link scope state (R83) -/

theorem linkScopesOf_iff (s : State) (sc : ScopeIx) : (linkScopesOf s).get sc = true ↔ s.gsu.ownScopes.get sc = true ∨
    ∃ n, n ≠ s.stc.nodeId ∧ (laneAt s n).presence = .present ∧ (laneAt s n).scopes.get sc = true := by
  simp [linkScopesOf, peerPresent, and_assoc]

/-- Evaluating the link scope state writes it and the gating (R84, R86). -/
theorem evalLinkScopes_gsu (s : State) : (evalLinkScopes s).gsu.linkScopes = linkScopesOf s ∧
    (evalLinkScopes s).gsu.ownScopes = s.gsu.ownScopes ∧ (evalLinkScopes s).gsu.groups = s.gsu.groups := ⟨rfl, rfl, rfl⟩

/-- A lane record stored under a peer's index: the link scope state is the own bits, that record's where it is Present, and
those of the other Present peers. -/
theorem linkScopesOf_setLane (s : State) (lane : LaneIx) (r : LaneRecord) (sc : ScopeIx) :
    (linkScopesOf (setLane s lane r)).get sc = true ↔ s.gsu.ownScopes.get sc = true ∨
      (lane ≠ s.stc.nodeId ∧ r.presence = .present ∧ r.scopes.get sc = true) ∨
      ∃ n, n ≠ lane ∧ n ≠ s.stc.nodeId ∧ (laneAt s n).presence = .present ∧ (laneAt s n).scopes.get sc = true := by
  rw [linkScopesOf_iff]
  simp only [setLane_keeps]
  refine or_congr_right ⟨?_, ?_⟩
  · rintro ⟨n, hn, hp, hs⟩
    by_cases hl : n = lane
    · subst hl; rw [laneAt_setLane_self] at hp hs; exact .inl ⟨hn, hp, hs⟩
    · rw [laneAt_setLane_ne s hl] at hp hs; exact .inr ⟨n, hl, hn, hp, hs⟩
  · rintro (⟨hn, hp, hs⟩ | ⟨n, hl, hn, hp, hs⟩)
    · exact ⟨lane, hn, by rwa [laneAt_setLane_self], by rwa [laneAt_setLane_self]⟩
    · exact ⟨n, hn, by rwa [laneAt_setLane_ne s hl], by rwa [laneAt_setLane_ne s hl]⟩

/-! ### Leaving Present (R17) -/

/-- The lane's records dropped, before the link scope state and the alignment state follow (R17, R141, R160). -/
def laneDropped (lane : LaneIx) (s : State) : State :=
  setCollection (setReassembly (setLane s lane (laneAt s lane).dropped) lane .idle) lane BindCollection.cleared

theorem leavePresent_eq (lane : LaneIx) (s : State) :
    leavePresent lane s = settle (evalLinkScopes (laneDropped lane s)) := rfl

/-- The link scope state is formed of the Lane Table, the own bits and the node ID (R83). -/
theorem leavePresent_linkScopes (lane : LaneIx) (s : State) :
    (leavePresent lane s).gsu.linkScopes = linkScopesOf (setLane s lane (laneAt s lane).dropped) := by
  rw [leavePresent_eq]
  simp only [settle_keeps]
  rw [(evalLinkScopes_gsu _).1]
  exact linkScopesOf_congr (by simp [laneDropped]) (by simp [laneDropped]) (by simp [laneDropped])

theorem leavePresent_reassembly (lane : LaneIx) (s : State) :
    (leavePresent lane s).mse.reassembly = s.mse.reassembly.put lane .idle := by
  simp [leavePresent, setReassembly]

theorem leavePresent_chs (lane : LaneIx) (s : State) :
    (leavePresent lane s).chs = { s.chs with collections := s.chs.collections.put lane BindCollection.cleared } := by
  simp [leavePresent, setCollection]

/-- Settles O20: each block after a lane's leaving Present, read off the lane's dropped records and the settling. -/
theorem leavingPresentDropsLane : Obligations.LeavingPresentDropsLane := by
  intro lane s
  dsimp only
  have hlane : ∀ n, laneAt (leavePresent lane s) n = if n = lane then (laneAt s lane).dropped else laneAt s n := by
    intro n
    rw [laneAt_congr (leavePresent_lif lane s), laneAt_setLane]
  have hreas : ∀ n, reassemblyAt (leavePresent lane s) n = if n = lane then .idle else reassemblyAt s n := by
    intro n
    rw [reassemblyAt, leavePresent_reassembly, Table.get_put]; rfl
  have hcol : ∀ n, collectionAt (leavePresent lane s) n = if n = lane then BindCollection.cleared else collectionAt s n := by
    intro n
    rw [collectionAt, leavePresent_chs, Table.get_put]; rfl
  have hmxd : (evalLinkScopes (laneDropped lane s)).mxd = s.mxd := by simp [laneDropped]
  have halu : (evalLinkScopes (laneDropped lane s)).alu = s.alu := by simp [laneDropped]
  have hstc : (evalLinkScopes (laneDropped lane s)).stc = s.stc := by simp [laneDropped]
  obtain ⟨hhist, htot, hout⟩ := settle_mxd (evalLinkScopes (laneDropped lane s))
  refine ⟨by rw [hlane, if_pos rfl]; rfl, fun n hn => by rw [hlane, if_neg hn], ?lif, by rw [hreas, if_pos rfl],
    fun n hn => by rw [hreas, if_neg hn], by rw [hcol, if_pos rfl]; rfl, fun n hn => by rw [hcol, if_neg hn],
    by rw [leavePresent_chs], by rw [leavePresent_chs], fun sc => ?links, by simp, ?own, by simp, by simp, by simp,
    fun c => ?latch, fun c => ?path, ?hist, ?totals, ?outs, ?stc, ?flags⟩
  case lif => rw [leavePresent_lif]; rfl
  case links =>
    rw [leavePresent_linkScopes, linkScopesOf_setLane]
    simp [LaneRecord.dropped]
  case own =>
    rw [leavePresent_eq]
    simp only [settle_keeps]
    rw [(evalLinkScopes_gsu _).2.1]
    simp [laneDropped]
  case latch =>
    rw [leavePresent_eq, ← alignAt_congr halu c]
    exact settle_latch _ c
  case path =>
    rw [leavePresent_eq, ← pathAt_congr hmxd c]
    exact settle_path _ c
  case stc => rw [leavePresent_eq, settle_stc, hstc]
  case flags =>
    have flags := settle_keeps_flags (evalLinkScopes (laneDropped lane s))
    rwa [hstc] at flags
  case hist => rw [leavePresent_eq, hhist, hmxd]
  case totals => rw [leavePresent_eq, htot, hmxd]
  case outs => rw [leavePresent_eq, hout, hmxd]

/-! ### Taking contents (R15, R16, R125, R136) -/

/-- Bus words added to open totals are added bus by bus; none stay none (R125). -/
theorem addBusWords_mxd (words : Bus → Int) (s : State) :
    (addBusWords words s).mxd = { s.mxd with totals := s.mxd.totals.map fun t => Table.make fun b => t.get b + words b } := by
  unfold addBusWords
  split
  · next h => rw [h, Option.map_none, ← h]
  · next t h => rw [h]; rfl

/-- The state in which a taken arrival's slot words are read (R15, R16, R84, R96, R125). -/
def contentsStored (lane : LaneIx) (ws : Table 54 Word) (s : State) : State :=
  addBusWords (fun b => (busWordOf ws b).toInt) (settle (evalLinkScopes (storeHeader lane ws s)))

/-- An idle word between messages changes nothing (R139). -/
theorem takeWord_idle {lane : LaneIx} (straps : BitVec 4) {s : State} (h : reassemblyAt s lane = .idle) :
    takeWord lane straps 0 s = s := by
  simp [takeWord, h]

theorem takeSlots_idle {lane : LaneIx} (straps : BitVec 4) {s : State} (h : reassemblyAt s lane = .idle) :
    takeSlots lane straps 0 0 s = s := by
  simp only [takeSlots, takeWord_idle straps h, ite_self]

/-- A Present peer's record after a Contributing arrival, before its header is stored (R14). -/
def LaneRecord.heard (r : LaneRecord) : LaneRecord :=
  { r with invalidRun := 0 }

/-- The contents of an arrival stored in the record it leaves: the Lane Table moves in that record alone, and the rest moves by
the link scope state, the settling and the bus words. -/
theorem contentsStored_heard (lane : LaneIx) (ws : Table 54 Word) (s : State) :
    contentsStored lane ws (setLane s lane (laneAt s lane).heard) = addBusWords (fun b => (busWordOf ws b).toInt)
      (settle (evalLinkScopes (setLane s lane ((laneAt s lane).heard.withHeader ws)))) := by
  rw [contentsStored, storeHeader_eq, setLane_setLane, laneAt_setLane_self]

/-- The Contributing arrival of a Present peer takes its slot words in the state that holds its contents (R14 to R16, R136). -/
theorem exec_laneArrival_taken {lane : LaneIx} {ws : Table 54 Word} {s : State} (straps : BitVec 4) (hpin : s.resetPin = false)
    (hf : takesFrames s = true) (hr : s.lif.receiving = true) (hn : lane ≠ s.stc.nodeId)
    (hp : (laneAt s lane).presence = .present) (hv : validWords lane (.words ws) = some ws) (hst : markState (ws.get 0) = 2) :
    exec (.laneArrival lane (.words ws) straps) s = .next (takeSlots lane straps (ws.get 51) (ws.get 52)
      (contentsStored lane ws (setLane s lane (laneAt s lane).heard))) := by
  have step : presenceStep (laneAt s lane) (arrivalKind (some ws)) = ((laneAt s lane).heard, .contentsTaken) :=
    arrivalKind_contributing hst ▸ presenceStep_present_contributing hp
  rw [exec_laneArrival lane _ straps hpin hf hr, laneArrives_peer hn, hv, peerArrival_eq straps step]
  rfl

/-- Settles O21: the slot words are taken in the state that the header, the settling and the bus words leave. -/
theorem takenArrivalStoresContents : Obligations.TakenArrivalStoresContents := by
  intro lane straps ws s hpin hf hr hn hp hv hst
  have taken := exec_laneArrival_taken straps hpin hf hr hn hp hv hst
  rw [contentsStored_heard] at taken
  generalize hstored : (laneAt s lane).heard.withHeader ws = stored at taken
  have hmxd : (evalLinkScopes (setLane s lane stored)).mxd = s.mxd := by simp
  have halu : (evalLinkScopes (setLane s lane stored)).alu = s.alu := by simp
  obtain ⟨hhist, htot, hout⟩ := settle_mxd (evalLinkScopes (setLane s lane stored))
  have hwords := addBusWords_mxd (fun b => (busWordOf ws b).toInt) (settle (evalLinkScopes (setLane s lane stored)))
  generalize ht : addBusWords (fun b => (busWordOf ws b).toInt) (settle (evalLinkScopes (setLane s lane stored))) = t at *
  have hlif : t.lif = (setLane s lane stored).lif := by simp [← ht]
  refine ⟨t, ?self, fun n hne => ?others, fun totals hopen => ?opened, fun hclosed => ?closed, fun sc => ?links,
    by simp [← ht], by simp [← ht, evalLinkScopes_gsu], by simp [← ht], by simp [← ht], by simp [← ht], by simp [← ht],
    ?mse, ?stc, by rw [hwords, ← hmxd, ← hhist], fun c => ?path, fun c => ?latch, by rw [hwords, ← hmxd, ← hout], taken,
    fun h51 h52 hidle => ?idle⟩
  case self => rw [laneAt_congr hlif, laneAt_setLane_self, ← hstored]; rfl
  case others => rw [laneAt_congr hlif, laneAt_setLane_ne s hne]
  case opened => rw [hwords, htot, hmxd, hopen]; rfl
  case closed => rw [hwords, htot, hmxd, hclosed]; rfl
  case links =>
    have hlinks : t.gsu.linkScopes = linkScopesOf (setLane s lane stored) := by simp [← ht, evalLinkScopes_gsu]
    rw [hlinks, linkScopesOf_setLane, ← hstored]
    simp [LaneRecord.withHeader, LaneRecord.heard, hn, hp, scopeBitsOf]
  case mse =>
    have reported := settle_mse (evalLinkScopes (setLane s lane stored))
    simpa [← ht] using reported
  case stc =>
    have reported := settle_stc (evalLinkScopes (setLane s lane stored))
    simpa [← ht] using reported
  case path =>
    have same : pathAt t c = pathAt (settle (evalLinkScopes (setLane s lane stored))) c := by rw [pathAt, hwords]; rfl
    rw [same, ← pathAt_congr hmxd c]
    exact settle_path _ c
  case latch =>
    have same : t.alu = (settle (evalLinkScopes (setLane s lane stored))).alu := by simp [← ht]
    rw [← alignAt_congr halu c, alignAt_congr same]
    exact settle_latch _ c
  case idle =>
    have hre : reassemblyAt t lane = .idle := by
      rw [← hidle]; simp [reassemblyAt, ← ht]
    rw [taken, h51, h52, takeSlots_idle straps hre]

end Sys2Proof.Machine
end

section
/-! A strobe: its position, the Locate flag, the frame it counts and opens (R21, R25, R28, R29, R116, R125, R168). -/

namespace Sys2Proof.Machine

/-! ### The four strobe events (R28) -/

section
variable {r : Rfr} {p : Position}

theorem classify_unknown (h : r.known = false) : classify r p = .silentLocate := by
  simp [classify, h]

theorem classify_next (h : r.known = true) (ha : p.toNat = r.position.toNat + 1) : classify r p = .advance := by
  simp [classify, h, ha]

theorem classify_same (h : r.known = true) (hp : p = r.position) : classify r p = .park := by
  simp [classify, h, hp]

theorem classify_elsewhere (h : r.known = true) (ha : p.toNat ≠ r.position.toNat + 1) (hp : p ≠ r.position) :
    classify r p = .locate := by
  simp [classify, h, ha, hp]

end

/-- Each strobe is exactly one of the four events, by the comparison of its position with the current one. -/
theorem classify_iff (r : Rfr) (p : Position) :
    (classify r p = .advance ↔ r.known = true ∧ p.toNat = r.position.toNat + 1) ∧
    (classify r p = .park ↔ r.known = true ∧ p = r.position) ∧
    (classify r p = .locate ↔ r.known = true ∧ p.toNat ≠ r.position.toNat + 1 ∧ p ≠ r.position) ∧
    (classify r p = .silentLocate ↔ r.known = false) := by
  cases hk : r.known with
  | false => simp [classify_unknown hk]
  | true =>
    by_cases ha : p.toNat = r.position.toNat + 1
    · have hne : p ≠ r.position := by rintro rfl; omega
      simp [classify_next hk ha, ha, hne]
    · by_cases hp : p = r.position
      · subst hp; simp [classify_same hk rfl]
      · simp [classify_elsewhere hk ha hp, ha, hp]

/-! ### Reports of conditions other than Locate -/

/-- From one state to the other no Locate is reported, and the Notices that wait stay in front of those that join them. -/
def ReportsOthers (s t : State) : Prop :=
  t.stc.conditions.getLsbD 3 = s.stc.conditions.getLsbD 3 ∧ s.mse.notices <+: t.mse.notices

theorem ReportsOthers.trans {s t u : State} (h : ReportsOthers s t) (k : ReportsOthers t u) : ReportsOthers s u :=
  ⟨k.1.trans h.1, h.2.trans k.2⟩

/-- Where the flags and class 1 stand nothing is reported. -/
theorem ReportsOthers.of_eq {s t : State} (h : t.stc.conditions = s.stc.conditions) (k : t.mse.notices = s.mse.notices) :
    ReportsOthers s t :=
  ⟨by rw [h], by rw [k]⟩

theorem ReportsOthers.refl (s : State) : ReportsOthers s s := .of_eq rfl rfl

/-- A condition numbered other than 3 leaves the Locate flag. -/
theorem raise_locateFlag (c : Condition) (s : State) : (raise c s).stc.conditions.getLsbD 3 =
    (s.stc.conditions.getLsbD 3 || decide (c = .locate)) := by
  have bit := withCondition_bit s.stc.conditions c 3
  rw [raise_eq]
  cases c <;> exact bit

/-- A raised condition's Notice joins class 1 at its end, where it joins it (R178). -/
theorem raise_notices (c : Condition) (s : State) : s.mse.notices <+: (raise c s).mse.notices := by
  rw [raise_eq]
  show s.mse.notices <+: noticesAfter c s
  unfold noticesAfter
  split
  · exact ⟨_, rfl⟩
  · exact ⟨[], List.append_nil _⟩

theorem reportsOthers_raiseIf (b : Bool) {c : Condition} (h : c ≠ .locate) (s : State) :
    ReportsOthers s (raiseIf b c s) :=
  raiseIf_cases b c s (.refl s) ⟨by rw [raise_locateFlag, decide_eq_false h, Bool.or_false], raise_notices c s⟩

theorem reportsOthers_overdepth (b : Bool) (s : State) : ReportsOthers s (raiseIf b .overdepth s) :=
  reportsOthers_raiseIf b (by decide) s

theorem reportsOthers_clip (b : Bool) (s : State) : ReportsOthers s (raiseIf b .clip s) :=
  reportsOthers_raiseIf b (by decide) s

/-- A settling reports Overdepth alone (R98). -/
theorem reportsOthers_settle (s : State) : ReportsOthers s (settle s) := by
  have posted : ReportsOthers s (postDelays (s.setAlu (settled s).1)) := .of_eq (by simp) (by simp)
  exact posted.trans (reportsOthers_overdepth _ _)

/-- A write to Source reports Overdepth alone (R51, R98). -/
theorem reportsOthers_writeSource (c : Chan) (w : Word) (s : State) : ReportsOthers s (writeSource c w s) := by
  unfold writeSource
  dsimp only
  refine ReportsOthers.trans ?_ (reportsOthers_settle _)
  refine ReportsOthers.trans ?_ (reportsOthers_overdepth _ _)
  exact .of_eq (by simp) (by simp)

/-- A write to a send's Bus reports Overdepth alone (R98). -/
theorem reportsOthers_writeSendBus (c : Chan) (k : SendIx) (w : Word) (s : State) :
    ReportsOthers s (writeSendBus c k w s) := by
  unfold writeSendBus
  dsimp only
  refine ReportsOthers.trans ?_ (reportsOthers_settle _)
  exact .of_eq (by simp) (by simp)

/-- A write reports Overdepth alone. -/
theorem reportsOthers_applyWrite (c : Chan) (id : BitVec 16) (w : Word) (s : State) :
    ReportsOthers s (applyWrite c id w s) := by
  unfold applyWrite
  cases paramOf id with
  | source => exact reportsOthers_writeSource c w s
  | sendBus k => exact reportsOthers_writeSendBus c k w s
  | _ => exact .of_eq (by simp) (by simp)

/-- A change applied reports Overdepth alone (R166). -/
theorem reportsOthers_applyChange (s : State) (x : LaneChange) : ReportsOthers s (applyChange s x) := by
  unfold applyChange
  split
  · exact reportsOthers_applyWrite _ _ _ s
  · exact .of_eq (by simp) (by simp)

theorem reportsOthers_applyChanges (cs : List LaneChange) (s : State) : ReportsOthers s (cs.foldl applyChange s) := by
  induction cs generalizing s with
  | nil => exact .refl s
  | cons x cs ih => exact (reportsOthers_applyChange s x).trans (ih _)

/-- The applications of a strobe report Overdepth alone (R166). -/
theorem reportsOthers_applyDueChanges (s : State) : ReportsOthers s (applyDueChanges s) := by
  have taken : ∀ chs, ReportsOthers s (s.setChs chs) := fun _ => .of_eq (by rw [State.setChs_stc]) (by rw [State.setChs_mse])
  exact (taken _).trans (reportsOthers_applyChanges _ _)

/-- The changes of a strobe report Overdepth alone (R166, R168). -/
theorem reportsOthers_changesAtStrobe (e : StrobeEvent) (s : State) : ReportsOthers s (changesAtStrobe e s) := by
  have flushed : ReportsOthers s (if flushes e then flushQueue s else s) := by
    split
    · exact .of_eq (by simp) (by simp)
    · exact .refl s
  unfold changesAtStrobe
  dsimp only
  generalize (if flushes e then flushQueue s else s) = r at flushed ⊢
  split
  · exact flushed.trans (reportsOthers_applyDueChanges _)
  · exact flushed

/-- The close of a frame reports Clip alone (R128). -/
theorem reportsOthers_closeFrame (s : State) : ReportsOthers s (closeFrame s) := by
  unfold closeFrame
  split
  · exact .refl s
  · refine ReportsOthers.trans ?_ (reportsOthers_clip _ _)
    exact .of_eq (by simp) (by simp)

/-- The own lane words report Clip alone (R73). -/
theorem reportsOthers_ownWordsEnter (s : State) : ReportsOthers s (ownWordsEnter s) :=
  (reportsOthers_clip (laneClips s) s).trans (.of_eq (by simp [ownWordsEnter]) (by simp [ownWordsEnter]))

/-- Outside Isolated the change of station at a strobe reports nothing. -/
theorem reportsOthers_stationAtStrobe {s : State} (h : s.stc.station ≠ .isolated) : ReportsOthers s (stationAtStrobe s) := by
  unfold stationAtStrobe
  cases hs : s.stc.station with
  | isolated => exact absurd hs h
  | joining =>
    cases hj : s.stc.joiningComplete with
    | true => exact .of_eq (by simp) (by simp)
    | false => exact .refl s
  | booting | listening | contributing | silent => exact .of_eq rfl rfl

/-! ### The Locate flag of a strobe (R28) -/

/-- The end of Isolated reports Overdepth alone, and empties the classes (R32). -/
theorem leaveIsolated_locateFlag (s : State) :
    (leaveIsolated s).stc.conditions.getLsbD 3 = s.stc.conditions.getLsbD 3 := by
  unfold leaveIsolated
  dsimp only
  rw [(reportsOthers_settle _).1]
  simp

theorem stationAtStrobe_locateFlag (s : State) :
    (stationAtStrobe s).stc.conditions.getLsbD 3 = s.stc.conditions.getLsbD 3 := by
  by_cases h : s.stc.station = .isolated
  · simpa [stationAtStrobe, h] using leaveIsolated_locateFlag s
  · exact (reportsOthers_stationAtStrobe h).1

/-- The Locate flag is set where the strobe is a Locate. -/
theorem takeStrobe_locateFlag (p : Position) (s : State) : (takeStrobe p s).stc.conditions.getLsbD 3 =
    (s.stc.conditions.getLsbD 3 || decide (classify s.rfr p = .locate)) := by
  unfold takeStrobe raiseIf
  split
  · next h => simpa [h] using raise_locateFlag .locate (s.setRfr (strobeRfr s p))
  · next h => simp_all

theorem openByStation_locateFlag (b s : State) :
    (openByStation b s).stc.conditions.getLsbD 3 = s.stc.conditions.getLsbD 3 := by
  unfold openByStation
  dsimp only
  cases s.stc.station with
  | contributing => simpa [openContributing] using (reportsOthers_ownWordsEnter s).1
  | booting | listening | joining | silent | isolated => simp

theorem formedAtStrobe_locateFlag (p : Position) (inputs : Table 48 Sample) (s : State) :
    (formedAtStrobe p inputs s).stc.conditions.getLsbD 3 = (takeStrobe p s).stc.conditions.getLsbD 3 := by
  unfold formedAtStrobe
  simp only [formFrame_keeps]
  rw [(reportsOthers_changesAtStrobe _ _).1, (reportsOthers_closeFrame _).1, stationAtStrobe_locateFlag]

/-! ### A strobe in Booting (R21, R168) -/

theorem strobeTaken_booting {s : State} (p : Position) (inputs : Table 48 Sample) (h : s.stc.station = .booting) :
    strobeTaken p inputs s = strobeInBooting (classify s.rfr p) (takeStrobe p s) := by
  simp [strobeTaken, h]

/-- What a strobe in Booting writes beside the Locate condition. -/
def bootingStrobed (p : Position) (s : State) : State :=
  { s with
    rfr := { position := p, known := true, reference := .running, timer := s.rfr.timer }
    lif := { s.lif with receiving := false, driven := none }
    chs := { s.chs with queue := if classify s.rfr p = .advance ∨ classify s.rfr p = .park then s.chs.queue else [] } }

/-- In Booting a strobe writes the Reference Receiver, the frame mark and the flushed queue, and reports a Locate. -/
theorem strobeTaken_booting_eq {s : State} (p : Position) (inputs : Table 48 Sample) (h : s.stc.station = .booting) :
    strobeTaken p inputs s =
      if classify s.rfr p = .locate then raise .locate (bootingStrobed p s) else bootingStrobed p s := by
  have rfr : strobeRfr s p = { position := p, known := true, reference := .running, timer := s.rfr.timer } := by
    simp [strobeRfr, h]
  rw [strobeTaken_booting p inputs h, takeStrobe, rfr]
  unfold bootingStrobed
  cases classify s.rfr p with
  | locate => simp only [raiseIf, decide_true, if_true, raise_eq]; rfl
  | advance | park | silentLocate => rfl

/-! ### The Link Interface after a strobe -/

/-- Outside Booting a strobe opens a frame that is received. -/
theorem strobeTaken_receiving (p : Position) (inputs : Table 48 Sample) {s : State} (h : s.stc.station ≠ .booting) :
    (strobeTaken p inputs s).lif.receiving = true := by
  obtain ⟨-, hst, -⟩ := formedAtStrobe_station p inputs s
  rw [strobeTaken_eq p inputs s h, openByStation_lif, hst]
  cases hs : s.stc.station with
  | booting => exact absurd hs h
  | joining => cases s.stc.joiningComplete <;> rfl
  | listening | contributing | silent | isolated => rfl

/-- In Listening, Silent and Isolated, and in Booting, a strobe leaves the lane undriven (R6). -/
theorem strobeTaken_undriven (p : Position) (inputs : Table 48 Sample) {s : State} (hj : s.stc.station ≠ .joining)
    (hc : s.stc.station ≠ .contributing) :
    (strobeTaken p inputs s).lif.driven = none ∧ (strobeTaken p inputs s).lif.ownFrame = s.lif.ownFrame := by
  by_cases hb : s.stc.station = .booting
  · rw [strobeTaken_booting p inputs hb, strobeInBooting_lif]
    simp
  · obtain ⟨hframe, hst, -⟩ := formedAtStrobe_station p inputs s
    rw [strobeTaken_eq p inputs s hb, openByStation_lif, hst]
    cases hs : s.stc.station with
    | booting => exact absurd hs hb
    | joining => exact absurd hs hj
    | contributing => exact absurd hs hc
    | listening | silent | isolated => exact ⟨rfl, hframe⟩

/-- Settles O10: the strobe's reference, Locate flag and frame, part by part, and the whole state in Booting. -/
theorem strobeTakesPosition : Obligations.StrobeTakesPosition := by
  refine ⟨classify_iff, fun p inputs s hpin => ⟨strobeTaken p inputs s, exec_strobe p inputs s hpin, ?_⟩⟩
  obtain ⟨hrfr, -, -, hstation, hcount, -⟩ := strobeTaken_station p inputs s
  refine ⟨hrfr, ?locate, ?receiving, fun hl hlt => ⟨?_, ?_, ?_⟩, fun hb => strobeTaken_booting_eq p inputs hb⟩
  case locate =>
    rw [← takeStrobe_locateFlag p s]
    by_cases hb : s.stc.station = .booting
    · rw [strobeTaken_booting p inputs hb]; simp
    · rw [strobeTaken_eq p inputs s hb, openByStation_locateFlag, formedAtStrobe_locateFlag]
  case receiving =>
    by_cases hb : s.stc.station = .booting
    · rw [strobeTaken_booting p inputs hb, strobeInBooting_lif]; simp [hb]
    · rw [strobeTaken_receiving p inputs hb]; simp [hb]
  · rw [hstation, hl]
  · rw [hcount, hl]; simp [nextListening, hlt]
  · exact (strobeTaken_undriven p inputs (by simp [hl]) (by simp [hl])).1

end Sys2Proof.Machine
end

section
/-! The lane the engine composes: it reads back field by field, and a strobe drives it (R3 to R9, R153). -/

namespace Sys2Proof.Machine

/-! ### Fields of a word composed of parts -/

theorem field_or (a b : Word) (lo len : Nat) : field (a ||| b) lo len = field a lo len ||| field b lo len := by
  rw [field, BitVec.extractLsb'_or, BitVec.toNat_or]; rfl

theorem field_zero (lo len : Nat) : field 0 lo len = 0 := by
  simp [field_eq]

/-- A number placed where it fits is that number times the weight of its place. -/
theorem place_toNat {v lo len : Nat} (hv : v < 2 ^ len) (hl : lo + len ≤ 32) : (place v lo).toNat = v * 2 ^ lo := by
  have h32 : v * 2 ^ lo < 2 ^ 32 := by
    calc v * 2 ^ lo < 2 ^ len * 2 ^ lo := Nat.mul_lt_mul_of_pos_right hv (Nat.two_pow_pos lo)
      _ = 2 ^ (lo + len) := by rw [← Nat.pow_add, Nat.add_comm]
      _ ≤ 2 ^ 32 := Nat.pow_le_pow_right (by decide) hl
  have hv32 : v < 2 ^ 32 := Nat.lt_of_lt_of_le hv (Nat.pow_le_pow_right (by decide) (by omega))
  simp only [place, BitVec.toNat_shiftLeft, BitVec.toNat_ofNat, Nat.shiftLeft_eq, Nat.mod_eq_of_lt hv32, Nat.mod_eq_of_lt h32]

/-- A placed number reads back from its own field. -/
theorem field_place_self {v lo len : Nat} (hv : v < 2 ^ len) (hl : lo + len ≤ 32) : field (place v lo) lo len = v := by
  rw [field_eq, place_toNat hv hl, Nat.mul_div_cancel _ (Nat.two_pow_pos lo), Nat.mod_eq_of_lt hv]

/-- Below its place a placed number leaves the bits 0. -/
theorem field_place_below {v lo len lo' len' : Nat} (hv : v < 2 ^ len) (hl : lo + len ≤ 32) (h : lo' + len' ≤ lo) :
    field (place v lo) lo' len' = 0 := by
  obtain ⟨d, rfl⟩ : ∃ d, lo = lo' + (len' + d) := ⟨lo - lo' - len', by omega⟩
  have split : v * 2 ^ (lo' + (len' + d)) = v * 2 ^ d * 2 ^ len' * 2 ^ lo' := by
    rw [Nat.pow_add, Nat.pow_add]; ring
  rw [field_eq, place_toNat hv hl, split, Nat.mul_div_cancel _ (Nat.two_pow_pos lo'), Nat.mul_mod_left]

/-- Above its place a placed number leaves the bits 0. -/
theorem field_place_above {v lo len lo' len' : Nat} (hv : v < 2 ^ len) (hl : lo + len ≤ 32) (h : lo + len ≤ lo') :
    field (place v lo) lo' len' = 0 := by
  have small : v * 2 ^ lo < 2 ^ lo' := by
    calc v * 2 ^ lo < 2 ^ len * 2 ^ lo := Nat.mul_lt_mul_of_pos_right hv (Nat.two_pow_pos lo)
      _ = 2 ^ (lo + len) := by rw [← Nat.pow_add, Nat.add_comm]
      _ ≤ 2 ^ lo' := Nat.pow_le_pow_right (by decide) h
  rw [field_eq, place_toNat hv hl, Nat.div_eq_of_lt small, Nat.zero_mod]

/-- A bit is the field of one bit. -/
theorem getLsbD_eq_field (w : Word) (n : Nat) : w.getLsbD n = decide (field w n 1 = 1) := by
  rw [field_eq, BitVec.getLsbD, Nat.testBit_eq_decide_div_mod_eq, Nat.pow_one]

/-- Where no part has bits in the field, the field is that of the word they join. -/
theorem field_foldl_or_none {β : Type} (f : β → Word) (l : List β) (w : Word) (lo len : Nat)
    (h : ∀ i ∈ l, field (f i) lo len = 0) : field (l.foldl (fun acc i => acc ||| f i) w) lo len = field w lo len := by
  induction l generalizing w with
  | nil => rfl
  | cons x l ih =>
    rw [List.foldl_cons, ih _ fun i hi => h i (List.mem_cons_of_mem _ hi), field_or, h x List.mem_cons_self, Nat.or_zero]

/-- Where one part alone has bits in the field, the field is that part's. -/
theorem field_foldl_or_one {n : Nat} (f : Fin n → Word) (w : Word) (lo len : Nat) (i : Fin n) (hw : field w lo len = 0)
    (h : ∀ j, j ≠ i → field (f j) lo len = 0) :
    field ((List.finRange n).foldl (fun acc j => acc ||| f j) w) lo len = field (f i) lo len := by
  obtain ⟨front, back, hl⟩ := List.append_of_mem (List.mem_finRange i)
  have nodup : (front ++ i :: back).Nodup := hl ▸ List.nodup_finRange n
  have hfront : ∀ j ∈ front, field (f j) lo len = 0 := fun j hj => h j fun e => by
    subst e; exact (List.nodup_append.mp nodup).2.2 j hj j List.mem_cons_self rfl
  have hback : ∀ j ∈ back, field (f j) lo len = 0 := fun j hj => h j fun e => by
    subst e; exact (List.nodup_cons.mp (List.nodup_append.mp nodup).2.1).1 hj
  rw [hl, List.foldl_append, List.foldl_cons, field_foldl_or_none f back _ lo len hback, field_or,
    field_foldl_or_none f front w lo len hfront, hw, Nat.zero_or]

/-! ### The Lane Mark (R7) -/

/-- The four fields of a composed Lane Mark, and its bits drawn as 0. -/
theorem composeMark_fields (node : LaneIx) {code : Nat} (hc : code < 4) (r : Fin 8) :
    markSync (composeMark node code r) = 0x5C ∧ markNode (composeMark node code r) = node.val ∧
    markState (composeMark node code r) = code ∧ markTile (composeMark node code r) = r.val ∧
    field (composeMark node code r) 0 15 = 0 := by
  have hsync : 0x5C < 2 ^ 8 := by decide
  have hnode : node.val < 2 ^ 4 := node.isLt
  have hcode : code < 2 ^ 2 := hc
  have hr : r.val < 2 ^ 3 := r.isLt
  unfold markSync markNode markState markTile composeMark
  simp only [field_or]
  refine ⟨?_, ?_, ?_, ?_, ?_⟩
  · rw [field_place_self hsync (by decide), field_place_above hnode (by decide) (by decide),
      field_place_above hcode (by decide) (by decide), field_place_above hr (by decide) (by decide)]; rfl
  · rw [field_place_below hsync (by decide) (by decide), field_place_self hnode (by decide),
      field_place_above hcode (by decide) (by decide), field_place_above hr (by decide) (by decide)]; simp
  · rw [field_place_below hsync (by decide) (by decide), field_place_below hnode (by decide) (by decide),
      field_place_self hcode (by decide), field_place_above hr (by decide) (by decide)]; simp
  · rw [field_place_below hsync (by decide) (by decide), field_place_below hnode (by decide) (by decide),
      field_place_below hcode (by decide) (by decide), field_place_self hr (by decide)]; simp
  · rw [field_place_below hsync (by decide) (by decide), field_place_below hnode (by decide) (by decide),
      field_place_below hcode (by decide) (by decide), field_place_below hr (by decide) (by decide)]; rfl

/-! ### The Scope Word (R7) -/

theorem markValue_lt (b : Bool) : (if b then 1 else 0) < 2 ^ 1 := by cases b <;> decide

/-- The scope bits of a composed Scope Word are those it was composed of. -/
theorem scopeBitsOf_composeScope (scopes : ScopeBits) (conditions : Byte) :
    scopeBitsOf (composeScope scopes conditions) = scopes := by
  refine Table.ext_get fun sc => ?_
  have hcond : field (place conditions.toNat 16) (24 + sc.val) 1 = 0 :=
    field_place_above (len := 8) conditions.isLt (by decide) (by omega)
  have bit : field (composeScope scopes conditions) (24 + sc.val) 1 = if scopes.get sc then 1 else 0 := by
    refine (field_foldl_or_one (fun k => placeBit (scopes.get k) (24 + k.val)) _ _ _ sc hcond fun k hk => ?_).trans
      (field_place_self (markValue_lt _) (by omega))
    have hne : k.val ≠ sc.val := fun e => hk (Fin.ext e)
    by_cases hlt : k.val < sc.val
    · exact field_place_above (markValue_lt _) (by omega) (by omega)
    · exact field_place_below (markValue_lt _) (by omega) (by omega)
  rw [scopeBitsOf, Table.get_make, getLsbD_eq_field, bit]
  cases scopes.get sc <;> rfl

/-- The condition summary of a composed Scope Word, and its bits drawn as 0. -/
theorem composeScope_fields (scopes : ScopeBits) (conditions : Byte) :
    field (composeScope scopes conditions) 16 8 = conditions.toNat ∧ field (composeScope scopes conditions) 0 16 = 0 := by
  have below : ∀ lo len, lo + len ≤ 24 →
      field (composeScope scopes conditions) lo len = field (place conditions.toNat 16) lo len := fun lo len h =>
    field_foldl_or_none (fun k : Fin 8 => placeBit (scopes.get k) (24 + k.val)) _ _ _ _ fun k _ =>
      field_place_below (markValue_lt _) (by omega) (by omega)
  exact ⟨(below 16 8 (by decide)).trans (field_place_self conditions.isLt (by decide)),
    (below 0 16 (by decide)).trans (field_place_below (len := 8) conditions.isLt (by decide) (by decide))⟩

/-! ### The Depth Tile (R3, R7) -/

theorem needField_lt (n : Need) : needField n < 2 ^ 5 := by
  cases n with
  | none => decide
  | some d => exact Nat.lt_trans d.isLt (by decide)

/-- A need reads back from its tile field. -/
theorem needOfField_needField (n : Need) : needOfField (needField n) = n := by
  cases n with
  | none => rfl
  | some d =>
    have h31 : d.val ≠ 31 := by omega
    rw [needField, needOfField, if_neg h31, dif_pos d.isLt]

/-- Each tile field of a composed Depth Tile is its bus's need. -/
theorem field_composeTile (needs : Table 48 Need) (r : Fin 8) (i : Fin 6) :
    field (composeTile needs r) (25 - 5 * i.val) 5 = needField (needs.get ⟨6 * r.val + i.val, by omega⟩) := by
  refine (field_foldl_or_one (fun k : Fin 6 => place (needField (needs.get ⟨6 * r.val + k.val, by omega⟩)) (25 - 5 * k.val))
    _ _ _ i (field_zero _ _) fun k hk => ?_).trans (field_place_self (needField_lt _) (by omega))
  have hne : k.val ≠ i.val := fun e => hk (Fin.ext e)
  by_cases hlt : k.val < i.val
  · exact field_place_below (needField_lt _) (by omega) (by omega)
  · exact field_place_above (needField_lt _) (by omega) (by omega)

/-- The highest bits of a composed Depth Tile are 0. -/
theorem field_composeTile_high (needs : Table 48 Need) (r : Fin 8) : field (composeTile needs r) 30 2 = 0 :=
  (field_foldl_or_none (fun k : Fin 6 => place (needField (needs.get ⟨6 * r.val + k.val, by omega⟩)) (25 - 5 * k.val))
    _ _ _ _ fun k _ => field_place_above (needField_lt _) (by omega) (by omega)).trans (field_zero _ _)

/-- A composed Depth Tile writes its six needs into a row, and leaves the others (R16). -/
theorem rowWithTile_composeTile (needs row : Table 48 Need) (r : Fin 8) (b : Bus) :
    (rowWithTile row r.val (composeTile needs r)).get b = if b.val / 6 = r.val then needs.get b else row.get b := by
  rw [rowWithTile, Table.get_make]
  split
  · next hb =>
    have at_b : (⟨6 * r.val + b.val % 6, by omega⟩ : Bus) = b := Fin.ext (by show 6 * r.val + b.val % 6 = b.val; omega)
    have tile := field_composeTile needs r ⟨b.val % 6, Nat.mod_lt _ (by decide)⟩
    rw [at_b] at tile
    rw [tile, needOfField_needField]
  · rfl

/-- A tile field below 31 is read as a depth, at most 14 (R3). -/
theorem needOfField_map {n : Nat} (h : n ≠ 31) : (needOfField n).map Fin.val = some (min n 14) := by
  unfold needOfField
  rw [if_neg h]
  split
  · next hlt => rw [Nat.min_eq_left (by omega)]; rfl
  · next hge => rw [Nat.min_eq_right (by omega)]; rfl

theorem rowWithTile_get (row : Table 48 Need) {r : Nat} (tile : Word) {b : Bus} (h : b.val / 6 = r) :
    (rowWithTile row r tile).get b = needOfField (field tile (25 - 5 * (b.val % 6)) 5) := by
  rw [rowWithTile, Table.get_make, if_pos h]

/-! ### The whole lane (R4, R5) -/

section
variable (h0 h1 h2 : Word) (buses : Table 48 Word) (m0 m1 : Word)

/-- The words of a lane before its Check word. -/
def laneBody : List Word := [h0, h1, h2] ++ buses.cells ++ [m0, m1]

theorem laneBody_length : (laneBody h0 h1 h2 buses m0 m1).length = 53 := by simp [laneBody, buses.len]

theorem composeLane_cells : (composeLane h0 h1 h2 buses m0 m1).cells =
    laneBody h0 h1 h2 buses m0 m1 ++ [checkWord (laneBody h0 h1 h2 buses m0 m1)] := by
  simp [composeLane, laneBody]

theorem composeLane_header : (composeLane h0 h1 h2 buses m0 m1).get 0 = h0 ∧ (composeLane h0 h1 h2 buses m0 m1).get 1 = h1 ∧
    (composeLane h0 h1 h2 buses m0 m1).get 2 = h2 := ⟨rfl, rfl, rfl⟩

theorem composeLane_bus (b : Bus) : busWordOf (composeLane h0 h1 h2 buses m0 m1) b = buses.get b := by
  have hb : b.val < buses.cells.length := by rw [buses.len]; exact b.isLt
  simp only [busWordOf, Table.get, composeLane, List.append_assoc]
  rw [List.getElem_append_right (by simp), List.getElem_append_left (by simpa using hb)]
  simp

theorem composeLane_slots : (composeLane h0 h1 h2 buses m0 m1).get 51 = m0 ∧
    (composeLane h0 h1 h2 buses m0 m1).get 52 = m1 := by
  constructor <;> simp only [Table.get, composeLane] <;> rw [List.getElem_append_right (by simp [buses.len])] <;>
    simp [buses.len]

theorem composeLane_check : (composeLane h0 h1 h2 buses m0 m1).get 53 = checkWord (laneBody h0 h1 h2 buses m0 m1) := by
  simp only [Table.get, composeLane_cells]
  rw [List.getElem_append_right (by simp [laneBody_length])]
  simp [laneBody_length]

/-- The Check word of a composed lane is its check value (R4). -/
theorem composeLane_checks : ((composeLane h0 h1 h2 buses m0 m1).get 53).toNat =
    checkValue (composeLane h0 h1 h2 buses m0 m1).cells := by
  have hle : checkValue (laneBody h0 h1 h2 buses m0 m1) < 2 ^ 16 := Nat.lt_succ_of_le (checkValue_le _)
  have hlen := laneBody_length h0 h1 h2 buses m0 m1
  have body : checkValue (composeLane h0 h1 h2 buses m0 m1).cells = checkValue (laneBody h0 h1 h2 buses m0 m1) := by
    rw [composeLane_cells, checkValue, checkValue, List.take_append_of_le_length (by omega)]
  rw [composeLane_check, body, checkWord, place_toNat hle (by decide)]
  simp

end

/-- A lane with a composed Lane Mark of state code 1 or 2 is valid at its node's index (R5). -/
theorem composeLane_valid (node : LaneIx) {code : Nat} (hc : code = 1 ∨ code = 2) (r : Fin 8) (h1 h2 : Word)
    (buses : Table 48 Word) (m0 m1 : Word) :
    validWords node (.words (composeLane (composeMark node code r) h1 h2 buses m0 m1)) =
      some (composeLane (composeMark node code r) h1 h2 buses m0 m1) := by
  obtain ⟨hsync, hnode, hstate, -, -⟩ := composeMark_fields node (code := code) (by omega) r
  rw [validWords_words, wordsValid, composeLane_checks, (composeLane_header _ _ _ _ _ _).1, hsync, hnode, hstate]
  simp [hc]

/-! ### What a strobe drives (R6 to R9) -/

theorem laneWords_congr {s t : State} (hp : t.mxd.channels = s.mxd.channels) (hs : t.sst = s.sst) :
    laneWords t = laneWords s := by
  have contributions : ∀ b c k, sendContribution t b c k = sendContribution s b c k := by
    intro b c k
    unfold sendContribution pathAt channelAt
    rw [hp, hs]
  simp only [laneWords, laneSum, contributions]

/-- The state in which the arbiter fills the slots of the frame a strobe opens (R153). -/
def slotsFilledFrom (p : Position) (inputs : Table 48 Sample) (s : State) : State :=
  meterFrame (ownWordsEnter (formedAtStrobe p inputs s))

/-- Outside Isolated the change of station queues an Announce and starts the meters at the entry to Contributing alone (R27). -/
theorem stationAtStrobe_classes {s : State} (h : s.stc.station ≠ .isolated) :
    (stationAtStrobe s).mse.announceWaiting = (s.mse.announceWaiting || entersContributing s) ∧
    (stationAtStrobe s).mse.stripAnswers = s.mse.stripAnswers ∧ (stationAtStrobe s).mse.meterAnswers = s.mse.meterAnswers ∧
    (stationAtStrobe s).mtu.windowCount = if entersContributing s then 0 else s.mtu.windowCount := by
  unfold stationAtStrobe
  cases hs : s.stc.station with
  | isolated => exact absurd hs h
  | joining =>
    cases hj : s.stc.joiningComplete <;>
      simp [entersContributing, hs, hj, enterContributing, queueAnnounce, startMetering]
  | booting | listening | contributing | silent => simp [entersContributing, hs]

theorem entersContributing_takeStrobe (p : Position) (s : State) :
    entersContributing (takeStrobe p s) = entersContributing s := by
  simp [entersContributing]

/-- The transmit classes and the window count of the state a strobe forms, outside Isolated. -/
theorem formedAtStrobe_classes (p : Position) (inputs : Table 48 Sample) {s : State} (h : s.stc.station ≠ .isolated) :
    s.mse.notices <+: (formedAtStrobe p inputs s).mse.notices ∧
    (formedAtStrobe p inputs s).mse.announceWaiting = (s.mse.announceWaiting || entersContributing s) ∧
    (formedAtStrobe p inputs s).mse.stripAnswers = s.mse.stripAnswers ∧
    (formedAtStrobe p inputs s).mse.meterAnswers = s.mse.meterAnswers ∧
    (formedAtStrobe p inputs s).mtu.windowCount = if entersContributing s then 0 else s.mtu.windowCount := by
  have hr : (takeStrobe p s).stc.station ≠ .isolated := by simpa using h
  obtain ⟨ha, hsa, hma, hw⟩ := stationAtStrobe_classes hr
  have located : s.mse.notices <+: (takeStrobe p s).mse.notices := by
    unfold takeStrobe
    exact raiseIf_cases (P := fun t => s.mse.notices <+: t.mse.notices) _ _ _ ⟨[], List.append_nil _⟩
      (raise_notices .locate (s.setRfr (strobeRfr s p)))
  rw [entersContributing_takeStrobe] at ha hw
  unfold formedAtStrobe
  simp only [formFrame_keeps, changesAtStrobe_keeps, closeFrame_keeps]
  refine ⟨?_, by simpa using ha, by simpa using hsa, by simpa using hma, by simpa using hw⟩
  exact ((located.trans (reportsOthers_stationAtStrobe hr).2).trans (reportsOthers_closeFrame _).2).trans
    (reportsOthers_changesAtStrobe _ _).2

/-- Short of a window end a meter frame leaves the transmit classes (R174). -/
theorem meterFrame_mse {s : State} (h : s.mtu.windowCount + 1 ≠ 2048) : (meterFrame s).mse = s.mse := by
  simp [meterFrame, h]

/-- The three header words of the own lane (R7). -/
theorem composeHeader_words (s : State) (code : Nat) :
    (composeHeader s code).getD 0 0 = composeMark s.stc.nodeId code s.lif.ownFrame ∧
    (composeHeader s code).getD 1 0 = composeScope s.gsu.ownScopes s.stc.conditions ∧
    (composeHeader s code).getD 2 0 = composeTile s.alu.ownNeeds s.lif.ownFrame := by
  simp [composeHeader]

/-- In Contributing the slots are filled from the classes the meters leave (R9, R153). -/
theorem openByStation_contributing (b : State) {s : State} (h : s.stc.station = .contributing) :
    (openByStation b s).mse = (fillSlot (fillSlot (meterFrame (ownWordsEnter s))).2).2.mse ∧
    (openByStation b s).stc = (ownWordsEnter s).stc := by
  simp [openByStation, h, openContributing]

/-- A strobe in Joining that does not end it drives the header, zero bus words and idle slots (R8). -/
theorem strobeTaken_drives_joining (p : Position) (inputs : Table 48 Sample) {s : State} (hs : s.stc.station = .joining)
    (hj : s.stc.joiningComplete = false) :
    (strobeTaken p inputs s).lif.driven = some (composeLane (composeMark s.stc.nodeId 1 s.lif.ownFrame)
        (composeScope s.gsu.ownScopes s.stc.conditions) (composeTile s.alu.ownNeeds s.lif.ownFrame) (Table.fill 48 0) 0 0) ∧
      (strobeTaken p inputs s).lif.ownFrame = s.lif.ownFrame + 1 := by
  obtain ⟨hframe, hst, -⟩ := formedAtStrobe_station p inputs s
  simp only [hs, hj] at hst
  rw [strobeTaken_eq p inputs s (by simp [hs]), openByStation_lif, hst]
  simp only [Bool.false_eq_true, if_false, composeHeader_words, hframe, and_self]

/-- The frame of a Contributing station, or of one that enters Contributing, is opened as Contributing (R9, R27). -/
theorem formedAtStrobe_contributing (p : Position) (inputs : Table 48 Sample) {s : State}
    (h : s.stc.station = .contributing ∨ s.stc.station = .joining ∧ s.stc.joiningComplete = true) :
    (formedAtStrobe p inputs s).stc.station = .contributing := by
  obtain ⟨-, hst, -⟩ := formedAtStrobe_station p inputs s
  rw [hst]
  rcases h with h | ⟨h, hj⟩
  · rw [h]
  · rw [h, hj]; rfl

/-- A Contributing frame drives the header, the lane words and the two words the arbiter fills in turn, and leaves the classes
as the arbiter does (R9, R153). -/
theorem strobeTaken_drives_contributing (p : Position) (inputs : Table 48 Sample) {s : State}
    (h : s.stc.station = .contributing ∨ s.stc.station = .joining ∧ s.stc.joiningComplete = true) :
    let t := strobeTaken p inputs s
    let u := slotsFilledFrom p inputs s
    t.lif.driven = some (composeLane (composeMark s.stc.nodeId 2 s.lif.ownFrame)
        (composeScope s.gsu.ownScopes s.stc.conditions) (composeTile s.alu.ownNeeds s.lif.ownFrame) (laneWords t)
        (fillSlot u).1 (fillSlot (fillSlot u).2).1) ∧
      t.lif.ownFrame = s.lif.ownFrame + 1 ∧ t.mse = (fillSlot (fillSlot u).2).2.mse ∧ u.stc = t.stc := by
  dsimp only
  have hb : s.stc.station ≠ .booting := by rcases h with h | ⟨h, -⟩ <;> simp [h]
  have hst := formedAtStrobe_contributing p inputs h
  obtain ⟨hframe, -⟩ := formedAtStrobe_station p inputs s
  have hwords : laneWords (strobeTaken p inputs s) = laneWords (formedAtStrobe p inputs s) := by
    rw [strobeTaken_eq p inputs s hb]
    exact laneWords_congr (openByStation_mxd _ _).1 (by simp)
  obtain ⟨hmse, hstc⟩ := openByStation_contributing s hst
  rw [hwords, strobeTaken_eq p inputs s hb, openByStation_lif, hst]
  refine ⟨?_, ?_, hmse, ?_⟩
  · simp only [composeHeader_words, slotsFilledFrom]
  · simp only [hframe]
  · rw [hstc, slotsFilledFrom]; simp

/-- Settles O17: the composed words field by field, the tile fields as they are read, and the lane a strobe drives by station. -/
theorem composedLaneReadsBack : Obligations.ComposedLaneReadsBack := by
  refine ⟨?composed, fun row r tile b hb => ⟨fun h31 => ?none, fun h31 => ?depth⟩, ?driven⟩
  case composed =>
    intro node code r scopes conditions needs row buses m0 m1 hc
    obtain ⟨hsync, hnode, hstate, htile, hzero⟩ := composeMark_fields node (code := code) (by omega) r
    obtain ⟨hcond, hlow⟩ := composeScope_fields scopes conditions
    obtain ⟨hm0, hm1⟩ := composeLane_slots (composeMark node code r) (composeScope scopes conditions) (composeTile needs r)
      buses m0 m1
    exact ⟨composeLane_valid node hc r _ _ buses m0 m1, hsync, hnode, hstate, htile, hzero,
      scopeBitsOf_composeScope scopes conditions, hcond, hlow, field_composeTile_high needs r,
      rowWithTile_composeTile needs row r, composeLane_bus _ _ _ buses m0 m1, hm0, hm1⟩
  case none => rw [rowWithTile_get row tile hb, h31]; rfl
  case depth => rw [rowWithTile_get row tile hb, needOfField_map h31]
  case driven =>
    intro p inputs s hpin
    refine ⟨strobeTaken p inputs s, exec_strobe p inputs s hpin, strobeTaken_undriven p inputs,
      strobeTaken_drives_joining p inputs, fun h => ?_⟩
    have hni : s.stc.station ≠ .isolated := by rcases h with h | ⟨h, -⟩ <;> simp [h]
    obtain ⟨hdriven, hframe, hmse, hstc⟩ := strobeTaken_drives_contributing p inputs h
    obtain ⟨hnotices, hannounce, hstrip, hmeter, hwindow⟩ := formedAtStrobe_classes p inputs hni
    obtain ⟨-, -, hprogress⟩ := formedAtStrobe_station p inputs s
    have enters : entersContributing s = decide (s.stc.station = .joining) := by
      rcases h with h | ⟨h, hj⟩ <;> simp_all [entersContributing]
    refine ⟨hframe, slotsFilledFrom p inputs s, hdriven, hmse, hstc, ?_, ?_, ?_, ?_, fun hw => ?_⟩
    · simpa [slotsFilledFrom, hni] using hprogress
    · rw [← enters, ← hannounce]; simp [slotsFilledFrom]
    · obtain ⟨ns, hns⟩ := hnotices.trans (reportsOthers_ownWordsEnter (formedAtStrobe p inputs s)).2
      exact ⟨ns, by simpa [slotsFilledFrom] using hns.symm⟩
    · simpa [slotsFilledFrom] using hstrip
    · have short : (ownWordsEnter (formedAtStrobe p inputs s)).mtu.windowCount + 1 ≠ 2048 := by
        simp only [ownWordsEnter_keeps, hwindow, enters]
        rcases hw with hw | hw
        · simp [hw]
        · split
          · decide
          · exact hw
      rw [slotsFilledFrom, meterFrame_mse short]
      simpa using hmeter

end Sys2Proof.Machine
end

section
/-! A station reset: what it forgets, what it keeps, and the values in force it forms of what is kept (R33, R39, R69, R101,
R103, R111, R122, R150). -/

namespace Sys2Proof.Machine

/-! ### The blocks a station reset forgets -/

/-- The state whose tables give the values in force after a station reset: the blocks reset, the settling taken (R111). -/
def stationResetSettled (straps : BitVec 4) (s : State) : State :=
  (stationResetBlocks straps s).setAlu (settled (stationResetBlocks straps s)).1

theorem stationResetTaken_eq (straps : BitVec 4) (s : State) : stationResetTaken straps s =
    raiseIf (settled (stationResetBlocks straps s)).2 .overdepth
      ((stationResetSettled straps s).setMxd (resetMxd (stationResetSettled straps s))) := rfl

section
variable (straps : BitVec 4) (s : State)

/-- What the blocks hold right before the values in force are formed. -/
theorem stationResetSettled_blocks :
    (stationResetSettled straps s).stc = stationResetStc straps s.stc ∧ (stationResetSettled straps s).rfr = Rfr.cleared ∧
    (stationResetSettled straps s).mse = Mse.cleared ∧ (stationResetSettled straps s).chs = Chs.cleared ∧
    (stationResetSettled straps s).mtu = Mtu.cleared ∧ (stationResetSettled straps s).sst = s.sst ∧
    (stationResetSettled straps s).mxd = s.mxd := by
  simp [stationResetSettled, stationResetBlocks]

/-- A station reset leaves the blocks as they stand before the values in force are formed, but for the Overdepth report. -/
theorem stationResetTaken_blocks :
    (stationResetTaken straps s).rfr = Rfr.cleared ∧ (stationResetTaken straps s).chs = Chs.cleared ∧
    (stationResetTaken straps s).mtu = Mtu.cleared ∧ (stationResetTaken straps s).sst = s.sst ∧
    (stationResetTaken straps s).gsu = (stationResetSettled straps s).gsu ∧
    (stationResetTaken straps s).alu = (stationResetSettled straps s).alu ∧
    (stationResetTaken straps s).mxd = resetMxd (stationResetSettled straps s) := by
  obtain ⟨-, hrfr, -, hchs, hmtu, hsst, -⟩ := stationResetSettled_blocks straps s
  rw [stationResetTaken_eq]
  simp [hrfr, hchs, hmtu, hsst]

/-- The Station Controller's records after a station reset: the Stop Record kept, the cause marked (R33 to R35). -/
theorem stationResetTaken_stc :
    (stationResetTaken straps s).stc.station = .booting ∧ (stationResetTaken straps s).stc.nodeId.val = straps.toNat ∧
    (stationResetTaken straps s).stc.resetCause = .stationReset ∧ (stationResetTaken straps s).stc.stop = s.stc.stop ∧
    (stationResetTaken straps s).stc.boot.noticeMask = 0 ∧ (stationResetTaken straps s).stc.listeningCount = 0 := by
  obtain ⟨hstc, -⟩ := stationResetSettled_blocks straps s
  rw [stationResetTaken_eq, raiseIf_stc, State.setMxd_stc, hstc]
  exact ⟨rfl, rfl, rfl, rfl, rfl, rfl⟩

/-- The histories, totals, outputs and locks after a station reset are those after a power-on (R122, R135). -/
theorem stationResetTaken_audio :
    (stationResetTaken straps s).mxd.busHistory = (powerOnReset straps s).mxd.busHistory ∧
    (stationResetTaken straps s).mxd.totals = none ∧
    (stationResetTaken straps s).mxd.outputs = (powerOnReset straps s).mxd.outputs ∧
    (stationResetTaken straps s).mxd.locks = (powerOnReset straps s).mxd.locks := by
  obtain ⟨-, -, -, -, -, -, hmxd⟩ := stationResetTaken_blocks straps s
  rw [hmxd]
  exact ⟨rfl, rfl, rfl, rfl⟩

end

/-! ### The Overdepth report of a station reset (R111) -/

/-- With the flags and the mask clear and class 1 empty, an Overdepth sets flag 2 and queues its Notice (R177, R178). -/
theorem raiseIf_overdepth_fresh (b : Bool) {s : State} (hflags : s.stc.conditions = 0) (hmask : s.stc.boot.noticeMask = 0)
    (hnotices : s.mse.notices = []) (hprogress : s.mse.inProgress = none) :
    (raiseIf b .overdepth s).stc.conditions = (if b then 4 else 0) ∧
    (raiseIf b .overdepth s).mse.notices = if b then [{ condition := .overdepth, position := s.rfr.position }] else [] := by
  cases b with
  | false => exact ⟨hflags, hnotices⟩
  | true =>
    have queued : noticesAfter .overdepth s = [{ condition := .overdepth, position := s.rfr.position }] := by
      simp [noticesAfter, hflags, hmask, hnotices, inProgressCount, hprogress, conditionBit]
    have flag : withCondition 0 .overdepth = 4 := by decide
    simp only [raiseIf, if_true, raise_eq, State.setMse_stc, State.setStc_stc, State.setMse_mse, queued, hflags, flag,
      and_self]

/-- The flags and class 1 after a station reset: Overdepth alone, where the settling latched a channel. -/
theorem stationResetTaken_reports (straps : BitVec 4) (s : State) :
    ((stationResetTaken straps s).stc.conditions = 0 ∨ (stationResetTaken straps s).stc.conditions = 4) ∧
    (stationResetTaken straps s).mse = { Mse.cleared with
      notices := if (stationResetTaken straps s).stc.conditions = 0 then []
        else [{ condition := .overdepth, position := 0 }] } := by
  obtain ⟨hstc, hrfr, hmse, -⟩ := stationResetSettled_blocks straps s
  obtain ⟨hflags, hnotices⟩ := raiseIf_overdepth_fresh (settled (stationResetBlocks straps s)).2
    (s := (stationResetSettled straps s).setMxd (resetMxd (stationResetSettled straps s)))
    (by rw [State.setMxd_stc, hstc]; rfl) (by rw [State.setMxd_stc, hstc]; rfl) (by rw [State.setMxd_mse, hmse]; rfl)
    (by rw [State.setMxd_mse, hmse]; rfl)
  rw [stationResetTaken_eq, raiseIf_mse, hflags, hnotices, State.setMxd_mse, State.setMxd_rfr, hmse, hrfr]
  cases (settled (stationResetBlocks straps s)).2
  · exact ⟨.inl rfl, rfl⟩
  · exact ⟨.inr rfl, rfl⟩

/-! ### The values in force (R39, R69, R101, R103, R122) -/

/-- After a settling a Normal channel's depth is at most the aligned depth of each bus it sends to (R93, R95). -/
theorem settled_depth_le (s : State) {c : Chan} {k : SendIx} {b : Bus} {d : Depth}
    (hn : (settled s).1.channels.get c = .normal d) (hb : ((channelAt s c).sends.get k).bus = some b) :
    d ≤ (settled s).1.aligned.get b := by
  have sends : sendsTo (channelAt s c) b = true := (sendsTo_iff _ b).mpr ⟨k, hb⟩
  have ge := pass_aligned_ge s (settled s).1 b c d
  rw [settled_pass] at ge
  exact ge hn sends

/-- The delay in force of a send after a station reset: 0 unassigned, what its pending set would give it while latched, else
the bus's aligned depth less the channel's (R101, R111). -/
theorem stationReset_delay (straps : BitVec 4) (s : State) (c : Chan) (k : SendIx) :
    (((channelAt s c).sends.get k).bus = none → delayTarget (stationResetSettled straps s) c k = 0) ∧
    ∀ b, ((channelAt s c).sends.get k).bus = some b →
      (alignAt (stationResetSettled straps s) c = .overdepth →
        delayTarget (stationResetSettled straps s) c k = effectiveDelay (pathAt s c) k) ∧
      ∀ d, alignAt (stationResetSettled straps s) c = .normal d →
        (delayTarget (stationResetSettled straps s) c k).val + d.val =
          ((stationResetSettled straps s).alu.aligned.get b).val := by
  obtain ⟨-, -, -, -, -, hsst, hmxd⟩ := stationResetSettled_blocks straps s
  have channel : channelAt (stationResetSettled straps s) c = channelAt s c := channelAt_congr hsst c
  have blocks : channelAt (stationResetBlocks straps s) c = channelAt s c := channelAt_congr (by simp) c
  unfold delayTarget
  rw [channel, pathAt_congr hmxd c]
  refine ⟨fun hb => by rw [hb], fun b hb => ⟨fun ha => by rw [hb, ha], fun d ha => ?_⟩⟩
  rw [hb, ha]
  exact depthDiff_add _ _ (settled_depth_le (stationResetBlocks straps s) (c := c) (k := k) ha (by rw [blocks, hb]))

theorem pathAt_stationResetTaken (straps : BitVec 4) (s : State) (c : Chan) :
    pathAt (stationResetTaken straps s) c = resetPath (stationResetSettled straps s) c := by
  obtain ⟨-, -, -, -, -, -, hmxd⟩ := stationResetTaken_blocks straps s
  rw [pathAt, hmxd]
  exact Table.get_make _ c

theorem slot_stationResetTaken (straps : BitVec 4) (s : State) (o : SlotIx) :
    (stationResetTaken straps s).mxd.slots.get o = resetSlot (stationResetSettled straps s) (s.mxd.slots.get o) := by
  obtain ⟨-, -, -, -, -, -, hmxd⟩ := stationResetTaken_blocks straps s
  obtain ⟨-, -, -, -, -, -, hmxd'⟩ := stationResetSettled_blocks straps s
  rw [hmxd, resetMxd, Table.get_make, hmxd']

/-! ### Taking the message -/

/-- A Station Reset addressed to this station is taken where arrivals are (R143, R150). -/
theorem exec_stationReset {dest : BitVec 5} {s : State} (straps : BitVec 4) (hpin : s.resetPin = false)
    (hf : takesFrames s = true) (hd : dest.toNat = s.stc.nodeId.val ∨ dest.toNat = 31) :
    exec (.stationReset dest straps) s = .next (stationResetTaken straps s) := by
  have h30 : dest.toNat ≠ 30 := by
    have := s.stc.nodeId.isLt
    omega
  have here : addressed s dest = true := by simpa [addressed] using hd
  show Host.Outcome.next _ = _
  rw [unlessPinned, if_neg (by simp [hpin]), takeStationReset, onStation, if_neg h30, if_pos (by simp [hf, here])]

/-- Settles O6: the blocks forgotten and kept, the Overdepth report, and the values in force of each channel and slot. -/
theorem stationResetKeepsSettings : Obligations.StationResetKeepsSettings := by
  intro dest straps s hpin hst hd
  have hf : takesFrames s = true := by rcases hst with h | h | h | h <;> simp [takesFrames, h]
  refine ⟨stationResetTaken straps s, powerOnReset straps s, exec_stationReset straps hpin hf hd, rfl, ?_⟩
  obtain ⟨hrfr, hchs, hmtu, hsst, hgsu, halu, -⟩ := stationResetTaken_blocks straps s
  obtain ⟨-, -, -, -, -, hsst', -⟩ := stationResetSettled_blocks straps s
  obtain ⟨hflags, hmse⟩ := stationResetTaken_reports straps s
  obtain ⟨hstation, hnode, hcause, hstop, hmask, hcount⟩ := stationResetTaken_stc straps s
  obtain ⟨hhist, htotals, houtputs, hlocks⟩ := stationResetTaken_audio straps s
  have halign : ∀ c, alignAt (stationResetTaken straps s) c = alignAt (stationResetSettled straps s) c :=
    alignAt_congr halu
  have hchannel : ∀ c, channelAt (stationResetSettled straps s) c = channelAt s c := channelAt_congr hsst'
  refine ⟨⟨hstation, hnode, hcause, hstop, hmask, hcount, hflags⟩, stationResetTaken_lif straps s, hrfr, hchs, hmtu, hmse, hsst,
    by simp, fun c => stationResetTaken_latch straps s c, fun c => ?channel, hhist, htotals, houtputs, hlocks,
    fun o => ?slot⟩
  case channel =>
    rw [pathAt_stationResetTaken, halign, halu]
    refine ⟨rfl, congrArg ChannelRecord.source (hchannel c), rfl, rfl,
      (meterTarget_congr (hsst.trans hsst'.symm) hgsu halu c).symm, fun k => ?_⟩
    have send : (resetPath (stationResetSettled straps s) c).sends.get k =
        { bus := ((channelAt s c).sends.get k).bus, delay := delayTarget (stationResetSettled straps s) c k
          coef := sendTarget (stationResetSettled straps s) c k, glide := .holding } := by
      rw [← hchannel c]; exact Table.get_make _ k
    rw [send]
    exact ⟨rfl, (sendTarget_congr (hsst.trans hsst'.symm) hgsu halu c k).symm, rfl, stationReset_delay straps s c k⟩
  case slot =>
    rw [slot_stationResetTaken, halu]
    refine ⟨rfl, rfl, rfl, fun b hb => ?_⟩
    have delay : (resetSlot (stationResetSettled straps s) (s.mxd.slots.get o)).delay =
        slotTarget (stationResetSettled straps s) b := by
      rw [resetSlot, hb]
    rw [delay]
    exact slotTarget_add _ b

end Sys2Proof.Machine
end

section
/-! What each command can do to the station, its reset records and the reference: the events of station life, and the
statements that follow from them (R21 to R35). -/

namespace Sys2Proof.Machine

/-! ### The events -/

/-- What can happen to the station, the reset cause, the Stop Record and the Reference Receiver at one command. -/
inductive StationEvent where
  | kept | poweredOn | pinReset | stationReset | booted | strobed (p : Position) | lost | joins | nodeInUse | laneConflict
  | readBack

/-- The station and the Reference Receiver before and after each event (R25 to R35). -/
def StationEvent.Relates (e : StationEvent) (s t : State) : Prop :=
  match e with
  | .kept => KeepsStation s t
  | .poweredOn => t.stc.station = .booting ∧ t.stc.resetCause = .powerOn ∧ t.stc.stop = Stc.default.stop ∧
      t.rfr = Rfr.cleared
  | .pinReset => t.stc.station = .booting ∧ t.stc.resetCause = .resetPin ∧ t.stc.stop = s.stc.stop ∧ t.rfr = Rfr.cleared
  | .stationReset => ResetsStation s t
  | .booted => s.stc.station = .booting ∧ t.stc.station = .listening ∧ t.stc.resetCause = s.stc.resetCause ∧
      t.stc.stop = s.stc.stop ∧ t.rfr = { s.rfr with timer := .running }
  | .strobed p => t.rfr = strobeRfr s p ∧ t.stc.resetCause = s.stc.resetCause ∧ t.stc.stop = s.stc.stop ∧
      (s.stc.station ≠ .isolated ∧ t.stc.station = s.stc.station ∨
        s.stc.station = .isolated ∧ t.stc.station = .listening ∨
        s.stc.station = .joining ∧ t.stc.station = .contributing)
  | .lost => s.rfr.timer = .running ∧ s.rfr.reference = .running ∧ t.rfr = lostReference s.rfr ∧
      t.stc = if takesChanges s then (stopIn .isolated .referenceLoss s).stc else s.stc
  | .joins => EndsInJoining s t
  | .nodeInUse => EndsInSilent .nodeInUse s t
  | .laneConflict => EndsInSilent .laneConflict s t
  | .readBack => CountsClean s t

/-- The events each command may bring. -/
def eventsOf (c : Instr) : List StationEvent :=
  match c with
  | .powerOn _ => [.poweredOn]
  | .pinReset _ => [.pinReset]
  | .stationReset _ _ => [.kept, .stationReset]
  | .bootReadComplete _ => [.kept, .booted]
  | .bootReadNoAnswer => [.kept, .booted]
  | .strobe p _ => [.kept, .strobed p]
  | .loss => [.kept, .lost]
  | .laneArrival _ _ _ => [.kept, .stationReset, .joins, .nodeInUse, .laneConflict, .readBack]
  | .laneLost _ => [.kept, .joins]
  | .laneConflict => [.kept, .laneConflict]
  | .joiningComplete => [.kept, .readBack]
  | .endOfListening => [.kept, .joins, .nodeInUse]
  | _ => [.kept]

/-- Some event of the list relates the states. -/
def Brings (es : List StationEvent) (s t : State) : Prop :=
  ∃ e ∈ es, e.Relates s t

theorem Brings.kept {es : List StationEvent} {s t : State} (h : StationEvent.kept ∈ es) (k : KeepsStation s t) :
    Brings es s t := ⟨_, h, k⟩

/-! ### What each command brings -/

/-- A choice between a change and none brings what the change brings. -/
theorem Brings.ite {es : List StationEvent} {p : Prop} [Decidable p] {s t : State} (hk : StationEvent.kept ∈ es)
    (h : p → Brings es s t) : Brings es s (if p then t else s) := by
  split
  · next hp => exact h hp
  · exact .kept hk (.refl s)

theorem Brings.unlessPinned {es : List StationEvent} {f : State → State} {s : State} (hk : StationEvent.kept ∈ es)
    (h : Brings es s (f s)) : Brings es s (unlessPinned f s) := by
  unfold Machine.unlessPinned
  split
  · exact .kept hk (.refl s)
  · exact h

theorem takeStationReset_brings (dest : BitVec 5) (straps : BitVec 4) (s : State) :
    Brings [.kept, .stationReset] s (takeStationReset dest straps s) := by
  refine onStation_cases (P := Brings [.kept, .stationReset] s) _ _ _ _ ?drop ?fault fun hf => ?acted
  case drop => exact .kept (by simp) (.refl s)
  case fault => exact .kept (by simp) (by simp [KeepsStation])
  case acted => exact ⟨.stationReset, by simp, stationResetTaken_station straps s hf⟩

theorem bootReadEnds_brings {s : State} (b : Option BootSettings) (h : s.stc.station = .booting) :
    Brings [.kept, .booted] s (bootReadEnds b s) := by
  have timer : (bootReadEnds b s).rfr = { s.rfr with timer := .running } := by
    cases b <;> simp [bootReadEnds, leaveBooting]
  exact ⟨.booted, by simp, h, bootReadEnds_station b s, by simp, by simp, timer⟩

theorem strobeTaken_brings (p : Position) (inputs : Table 48 Sample) (s : State) :
    Brings [.kept, .strobed p] s (strobeTaken p inputs s) := by
  obtain ⟨hrfr, hcause, hstop, hstation, -, -⟩ := strobeTaken_station p inputs s
  refine ⟨.strobed p, by simp, hrfr, hcause, hstop, ?_⟩
  rw [hstation]
  cases hs : s.stc.station with
  | isolated => exact .inr (.inl ⟨rfl, rfl⟩)
  | joining =>
    cases s.stc.joiningComplete with
    | false => exact .inl ⟨by simp, rfl⟩
    | true => exact .inr (.inr ⟨rfl, rfl⟩)
  | booting | listening | contributing | silent => exact .inl ⟨by simp, rfl⟩

theorem lossTaken_brings {s : State} (ht : s.rfr.timer = .running) (hr : s.rfr.reference = .running) :
    Brings [.kept, .lost] s (lossTaken s) := by
  refine ⟨.lost, by simp, ht, hr, ?_⟩
  have rfr : (lossAtBlocks s).rfr = lostReference s.rfr := by simp [lossAtBlocks]
  unfold lossTaken
  split
  · exact ⟨by simpa using rfr, by simp [stopIn, rfr, lostReference]⟩
  · exact ⟨rfr, by simp⟩

theorem cleanReadback_countsClean {s : State} (h : drivesLane s = true) : CountsClean s (cleanReadback s) := by
  refine ⟨h, s.stc.joiningComplete || decide (s.stc.station = .joining) && decide (63 ≤ s.lif.cleanRun), fun hb => ?_,
    by rw [cleanReadback_eq], by simp⟩
  by_cases hj : s.stc.station = .joining
  · exact .inl hj
  · exact .inr (by simpa [hj] using hb)

theorem mismatchReadback_brings {s : State} (h : drivesLane s = true) :
    Brings [.kept, .laneConflict] s (mismatchReadback s) := by
  rw [mismatchReadback_eq]
  split
  · exact ⟨.laneConflict, by simp, h, rfl, rfl⟩
  · exact .kept (by simp) (by simp [KeepsStation, mismatchCounted])

theorem decideListening_brings {s : State} (h : s.stc.station = .listening) :
    Brings [.kept, .joins, .nodeInUse] s (decideListening s) := by
  by_cases ha : (laneAt s s.stc.nodeId).presence = .absent
  · rw [decideListening_absent ha]
    exact ⟨.joins, by simp, h, rfl, rfl⟩
  · rw [decideListening_heard ha]
    exact ⟨.nodeInUse, by simp, h, rfl, rfl⟩

theorem laneArrives_brings (lane : LaneIx) (rx : Reception) (straps : BitVec 4) (s : State) :
    Brings [.kept, .stationReset, .joins, .nodeInUse, .laneConflict, .readBack] s (laneArrives lane rx straps s) := by
  rcases laneArrives_station lane rx straps s with h | h | h | h | h | h
  · exact ⟨.kept, by simp, h⟩
  · exact ⟨.stationReset, by simp, h⟩
  · exact ⟨.joins, by simp, h⟩
  · exact ⟨.nodeInUse, by simp, h⟩
  · exact ⟨.laneConflict, by simp, h⟩
  · exact ⟨.readBack, by simp, h⟩

theorem laneLost_brings {lane : LaneIx} {s : State} (h : lossDue lane s = true) :
    Brings [.kept, .joins] s (laneArrives lane .undriven 0 s) := by
  rcases laneLost_station lane s h with h | h
  · exact ⟨.kept, by simp, h⟩
  · exact ⟨.joins, by simp, h⟩

theorem applyRamp_keepsStation (r : RampId) (s : State) : KeepsStation s (applyRamp r s) := by
  unfold applyRamp
  split <;> split <;> simp [KeepsStation]

/-- Every command brings one of its events. -/
theorem exec_brings {c : Instr} {s t : State} (h : exec c s = .next t) : Brings (eventsOf c) s t := by
  have next : ∀ {u : State}, Host.Outcome.next (φ := Fault) (ρ := Refusal) u = .next t → Brings (eventsOf c) s u →
      Brings (eventsOf c) s t := by
    intro u e; cases e; exact id
  cases c with
  | powerOn straps => exact next h ⟨.poweredOn, by simp [eventsOf], rfl, rfl, rfl, rfl⟩
  | pinReset straps => exact next h ⟨.pinReset, by simp [eventsOf], rfl, rfl, rfl, rfl⟩
  | resetPinAsserted | lockGained | lockLost => exact next h (.kept (by simp [eventsOf]) (by simp [KeepsStation]))
  | stationReset dest straps => exact next h (.unlessPinned (by simp [eventsOf]) (takeStationReset_brings dest straps s))
  | stripSet | stripQuery | groupLevel | bind | watch | unwatch | rearm | clearConditions | rollCall =>
    exact next h (.unlessPinned (by simp [eventsOf]) (.kept (by simp [eventsOf]) (by simp [KeepsStation])))
  | bootReadComplete | bootReadNoAnswer => exact next h (.ite (by simp [eventsOf]) fun hb => bootReadEnds_brings _ hb)
  | strobe p inputs =>
    refine next h ?_
    split
    · exact .kept (by simp [eventsOf]) (.refl s)
    · exact strobeTaken_brings p inputs s
  | loss => exact next h (.ite (by simp [eventsOf]) fun ⟨ht, hr⟩ => lossTaken_brings ht hr)
  | laneArrival lane rx straps => exact next h (.ite (by simp [eventsOf]) fun _ => laneArrives_brings lane rx straps s)
  | laneLost lane =>
    refine next h (.ite (by simp [eventsOf]) fun hd => laneLost_brings ?_)
    simp only [Bool.and_eq_true] at hd
    exact hd.2
  | laneConflict =>
    refine next h (.ite (by simp [eventsOf]) fun hd => mismatchReadback_brings ?_)
    simp only [Bool.and_eq_true] at hd
    exact hd.1.2
  | joiningComplete =>
    refine next h (.ite (by simp [eventsOf]) fun hd => ⟨.readBack, by simp [eventsOf], cleanReadback_countsClean ?_⟩)
    simp only [Bool.and_eq_true, decide_eq_true_eq] at hd
    exact drivesLane_eq_true (.inl hd.1.2)
  | endOfListening =>
    refine next h (.ite (by simp [eventsOf]) fun hd => decideListening_brings ?_)
    simp only [Bool.and_eq_true, listeningDone_iff] at hd
    exact hd.2.1
  | windowEnd | setClose =>
    exact next h (.ite (by simp [eventsOf]) fun _ => .kept (by simp [eventsOf]) (by simp [KeepsStation]))
  | pendingSetApplication ramp =>
    exact next h (.ite (by simp [eventsOf]) fun _ => .kept (by simp [eventsOf]) (applyRamp_keepsStation ramp s))

/-! ### The reference agrees with the station (R28, R29, R31, R32) -/

/-- The agreement reads the station state and the Reference Receiver alone. -/
theorem ReferenceOk.congr {s t : State} (i : ReferenceOk s) (hst : t.stc.station = s.stc.station) (hr : t.rfr = s.rfr) :
    ReferenceOk t := by
  simpa only [ReferenceOk, hst, hr] using i

theorem referenceOk_of_reset {t : State} (hst : t.stc.station = .booting) (hr : t.rfr = Rfr.cleared) : ReferenceOk t := by
  rw [ReferenceOk, hst, hr]
  exact ⟨nofun, rfl, rfl⟩

/-- With the reference and the timer running the agreement holds outside Booting and Isolated. -/
theorem referenceOk_of_running {t : State} (hb : t.stc.station ≠ .booting) (hi : t.stc.station ≠ .isolated)
    (hr : t.rfr.reference = .running) (ht : t.rfr.timer = .running) : ReferenceOk t := by
  refine ⟨fun h => absurd (hr.symm.trans h) (by decide), ?_⟩
  cases hst : t.stc.station with
  | booting => exact absurd hst hb
  | isolated => exact absurd hst hi
  | listening | joining | contributing => exact ⟨hr, ht⟩
  | silent => exact fun _ => ht

/-- With the reference Lost the agreement holds in Silent and Isolated. -/
theorem referenceOk_of_lost {r : Rfr} {t : State} (hst : t.stc.station = .silent ∨ t.stc.station = .isolated)
    (hr : t.rfr = lostReference r) : ReferenceOk t := by
  rw [ReferenceOk, hr]
  rcases hst with hst | hst <;> rw [hst]
  · exact ⟨fun _ => ⟨rfl, rfl⟩, nofun⟩
  · exact ⟨fun _ => ⟨rfl, rfl⟩, rfl⟩

theorem ReferenceOk.booting {s : State} (i : ReferenceOk s) (h : s.stc.station = .booting) :
    s.rfr.reference = .running ∧ s.rfr.timer = .stopped := by
  obtain ⟨-, hst⟩ := i
  rwa [h] at hst

/-- While the station is on the link its reference and its timer run. -/
theorem ReferenceOk.linked {s : State} (i : ReferenceOk s) (h : takesChanges s = true) :
    s.rfr.reference = .running ∧ s.rfr.timer = .running := by
  obtain ⟨-, hst⟩ := i
  cases hs : s.stc.station with
  | listening | joining | contributing => rwa [hs] at hst
  | booting | silent | isolated => simp [takesChanges, hs] at h

theorem takesChanges_of_drivesLane {s : State} (h : drivesLane s = true) : takesChanges s = true := by
  cases hs : s.stc.station <;> simp_all [drivesLane, takesChanges]

/-- Each event keeps the agreement. -/
theorem ReferenceOk.event {s t : State} (i : ReferenceOk s) {e : StationEvent} (h : e.Relates s t) : ReferenceOk t := by
  have silenced : ∀ cause, takesChanges s = true → EndsInSilent cause s t → ReferenceOk t := by
    rintro cause hl ⟨-, hstc, hrfr⟩
    obtain ⟨hr, ht⟩ := i.linked hl
    exact referenceOk_of_running (by simp [hstc]) (by simp [hstc]) (hrfr ▸ hr) (hrfr ▸ ht)
  cases e with
  | kept =>
    obtain ⟨hst, -, -, -, -, -, -, -, hrfr⟩ := h
    exact i.congr hst hrfr
  | poweredOn | pinReset =>
    obtain ⟨hst, -, -, hrfr⟩ := h
    exact referenceOk_of_reset hst hrfr
  | stationReset =>
    obtain ⟨-, hst, -, -, -, -, hrfr⟩ := h
    exact referenceOk_of_reset hst hrfr
  | booted =>
    obtain ⟨hb, hst, -, -, hrfr⟩ := h
    obtain ⟨hr, -⟩ := i.booting hb
    exact referenceOk_of_running (by simp [hst]) (by simp [hst]) (by rw [hrfr]; exact hr) (by rw [hrfr])
  | strobed p =>
    obtain ⟨hrfr, -, -, hmove⟩ := h
    by_cases hb : s.stc.station = .booting
    · have hst : t.stc.station = .booting := by simpa [hb] using hmove
      obtain ⟨-, ht⟩ := i.booting hb
      rw [ReferenceOk, hst, hrfr]
      exact ⟨nofun, rfl, by simp [strobeRfr, hb, ht]⟩
    · have timer : (strobeRfr s p).timer = .running := by simp [strobeRfr, hb]
      refine referenceOk_of_running ?_ ?_ (hrfr ▸ rfl) (hrfr ▸ timer)
      all_goals rcases hmove with ⟨hi, hst⟩ | ⟨-, hst⟩ | ⟨-, hst⟩ <;> simp_all
  | lost =>
    obtain ⟨ht, hr, hrfr, hstc⟩ := h
    refine referenceOk_of_lost ?_ hrfr
    rw [hstc]
    cases hs : s.stc.station with
    | booting => exact absurd ((i.booting hs).2.symm.trans ht) (by decide)
    | isolated | silent => simp [takesChanges, hs]
    | listening | joining | contributing => right; simp [takesChanges, hs, stopIn]
  | joins =>
    obtain ⟨hl, hstc, hrfr⟩ := h
    obtain ⟨hr, ht⟩ := i.linked (by simp [takesChanges, hl])
    exact referenceOk_of_running (by simp [hstc]) (by simp [hstc]) (hrfr ▸ hr) (hrfr ▸ ht)
  | nodeInUse =>
    obtain ⟨hl, -⟩ := id h
    exact silenced .nodeInUse (by simp_all [takesChanges]) h
  | laneConflict =>
    obtain ⟨hd, -⟩ := id h
    exact silenced .laneConflict (takesChanges_of_drivesLane hd) h
  | readBack =>
    obtain ⟨-, b, -, hstc, hrfr⟩ := h
    exact i.congr (by rw [hstc]) hrfr

/-- Settles O1: the front of the queue is executed by definition. -/
theorem stepRunsFrontCommand : Obligations.StepRunsFrontCommand := by
  intro c rest s h
  rw [step, h]

/-- Settles O12: a step executes a command, each command brings one of its events, and each event keeps the agreement. -/
theorem stepKeepsReferenceOk : Obligations.StepKeepsReferenceOk := by
  intro s t i h
  cases hp : s.pending with
  | nil =>
    rw [step, hp] at h
    cases h
    exact i
  | cons c rest =>
    rw [stepRunsFrontCommand c rest s hp] at h
    obtain ⟨e, -, he⟩ := exec_brings h
    exact ReferenceOk.event (i.congr rfl rfl) he

/-! ### The moves of the station (the table after R27) -/

/-- The move of the station state that an event is. -/
def StationEvent.moves (e : StationEvent) (a b : StationState) : Bool :=
  match e with
  | .kept => false
  | .poweredOn => decide (b = .booting)
  | .pinReset => decide (b = .booting)
  | .stationReset => decide (a ≠ .booting) && decide (a ≠ .isolated) && decide (b = .booting)
  | .booted => decide (a = .booting) && decide (b = .listening)
  | .strobed _ => decide (a = .isolated) && decide (b = .listening) || decide (a = .joining) && decide (b = .contributing)
  | .lost => (decide (a = .listening) || decide (a = .joining) || decide (a = .contributing)) && decide (b = .isolated)
  | .joins => decide (a = .listening) && decide (b = .joining)
  | .nodeInUse => decide (a = .listening) && decide (b = .silent)
  | .laneConflict => (decide (a = .joining) || decide (a = .contributing)) && decide (b = .silent)
  | .readBack => false

/-- The table after R27 lists for each command the moves of its events. -/
theorem moveListed_eq (c : Instr) (a b : StationState) : moveListed c a b = (eventsOf c).any (·.moves a b) := by
  cases c <;> cases a <;> cases b <;> rfl

/-- An event leaves the station state or is its move. -/
theorem StationEvent.Relates.moves {e : StationEvent} {s t : State} (h : e.Relates s t) :
    t.stc.station = s.stc.station ∨ e.moves s.stc.station t.stc.station = true := by
  cases e with
  | kept =>
    obtain ⟨hst, -⟩ := h
    exact .inl hst
  | poweredOn | pinReset =>
    obtain ⟨hst, -⟩ := h
    exact .inr (by simp [hst, StationEvent.moves])
  | stationReset =>
    obtain ⟨hf, hst, -⟩ := h
    right
    rw [hst]
    cases hs : s.stc.station <;> simp_all [takesFrames, StationEvent.moves]
  | booted =>
    obtain ⟨hb, hst, -⟩ := h
    exact .inr (by simp [hb, hst, StationEvent.moves])
  | strobed p =>
    obtain ⟨-, -, -, ⟨-, hst⟩ | ⟨hs, hst⟩ | ⟨hs, hst⟩⟩ := h
    · exact .inl hst
    · exact .inr (by simp [hs, hst, StationEvent.moves])
    · exact .inr (by simp [hs, hst, StationEvent.moves])
  | lost =>
    obtain ⟨-, -, -, hstc⟩ := h
    rw [hstc]
    cases hs : s.stc.station <;> simp [takesChanges, hs, stopIn, StationEvent.moves]
  | joins =>
    obtain ⟨hl, hstc, -⟩ := h
    exact .inr (by simp [hl, hstc, StationEvent.moves])
  | nodeInUse =>
    obtain ⟨hl, hstc, -⟩ := h
    exact .inr (by simp_all [StationEvent.moves])
  | laneConflict =>
    obtain ⟨hd, hstc, -⟩ := h
    right
    cases hs : s.stc.station <;> simp_all [drivesLane, StationEvent.moves]
  | readBack =>
    obtain ⟨-, b, -, hstc, -⟩ := h
    exact .inl (by rw [hstc])

/-- Settles O13: a command's event leaves the station state or is a move that the table lists for it. -/
theorem stationMovesAreListed : Obligations.StationMovesAreListed := by
  intro c s t h
  obtain ⟨e, he, hr⟩ := exec_brings h
  rw [moveListed_eq, List.any_eq_true]
  exact hr.moves.imp_right fun hm => ⟨e, he, hm⟩

/-! ### The reset cause record (R34) -/

/-- An event that is no reset leaves the mark, and does not enter Booting. -/
theorem StationEvent.Relates.keepsCause {e : StationEvent} {s t : State} (h : e.Relates s t) (hp : e ≠ .poweredOn)
    (hr : e ≠ .pinReset) (hs : e ≠ .stationReset) :
    t.stc.resetCause = s.stc.resetCause ∧ (t.stc.station = .booting → s.stc.station = .booting) := by
  cases e with
  | poweredOn => exact absurd rfl hp
  | pinReset => exact absurd rfl hr
  | stationReset => exact absurd rfl hs
  | kept =>
    obtain ⟨hst, -, -, -, hcause, -⟩ := h
    exact ⟨hcause, fun hb => hst ▸ hb⟩
  | booted =>
    obtain ⟨hb, -, hcause, -⟩ := h
    exact ⟨hcause, fun _ => hb⟩
  | strobed p =>
    obtain ⟨-, hcause, -, ⟨-, hst⟩ | ⟨-, hst⟩ | ⟨-, hst⟩⟩ := h
    · exact ⟨hcause, fun hb => hst ▸ hb⟩
    · exact ⟨hcause, by simp [hst]⟩
    · exact ⟨hcause, by simp [hst]⟩
  | lost =>
    obtain ⟨-, -, -, hstc⟩ := h
    rw [hstc]
    cases takesChanges s <;> simp [stopIn]
  | joins | nodeInUse | laneConflict =>
    obtain ⟨-, hstc, -⟩ := h
    simp [hstc]
  | readBack =>
    obtain ⟨-, b, -, hstc, -⟩ := h
    simp [hstc]

theorem powerOn_of_poweredOn {c : Instr} (h : .poweredOn ∈ eventsOf c) : ∃ straps, c = .powerOn straps := by
  cases c <;> simp [eventsOf] at h ⊢

theorem pinReset_of_pinReset {c : Instr} (h : .pinReset ∈ eventsOf c) : ∃ straps, c = .pinReset straps := by
  cases c <;> simp [eventsOf] at h ⊢

/-- A Station Reset comes as a message by itself or within an arrival (R150). -/
theorem carrier_of_stationReset {c : Instr} (h : .stationReset ∈ eventsOf c) :
    (∃ dest straps, c = .stationReset dest straps) ∨ ∃ lane rx straps, c = .laneArrival lane rx straps := by
  cases c <;> simp [eventsOf] at h ⊢

/-- Where a command is neither a power-on nor a pin reset, it marks StationReset exactly where it brings the station into
Booting. -/
theorem exec_resetCause {c : Instr} {s t : State} (h : exec c s = .next t) (hp : ∀ straps, c ≠ .powerOn straps)
    (hr : ∀ straps, c ≠ .pinReset straps) :
    t.stc.resetCause = if s.stc.station ≠ .booting ∧ t.stc.station = .booting then .stationReset else s.stc.resetCause := by
  obtain ⟨e, he, hrel⟩ := exec_brings h
  by_cases hs : e = .stationReset
  · subst hs
    obtain ⟨hf, hst, hcause, -⟩ := hrel
    have hb : s.stc.station ≠ .booting := fun hb => by simp [takesFrames, hb] at hf
    rw [hcause, if_pos ⟨hb, hst⟩]
  · obtain ⟨hcause, hb⟩ := hrel.keepsCause
      (by rintro rfl; obtain ⟨straps, rfl⟩ := powerOn_of_poweredOn he; exact hp straps rfl)
      (by rintro rfl; obtain ⟨straps, rfl⟩ := pinReset_of_pinReset he; exact hr straps rfl) hs
    rw [hcause, if_neg fun ⟨hn, ht⟩ => hn (hb ht)]

/-- The bits of a word below the place of a number are not the number's, whatever its size. -/
theorem field_place_low (v : Nat) {lo lo' len' : Nat} (h : lo' + len' ≤ lo) : field (place v lo) lo' len' = 0 := by
  have zero : (place v lo).extractLsb' lo' len' = 0#len' := by
    apply BitVec.eq_of_getLsbD_eq
    intro i hi
    simp [place, BitVec.getLsbD_extractLsb', BitVec.getLsbD_shiftLeft]
    omega
  rw [field, zero]
  exact BitVec.toNat_ofNat 0 len'

/-- The second word of an Announce below the strip base: node ID, reset cause, revision (9.6). -/
theorem announce_station_fields (s : State) :
    ∃ w, (announceWords s)[1]? = some w ∧ field w 12 4 = s.stc.nodeId.val ∧
      field w 8 4 = resetCauseCode s.stc.resetCause ∧ field w 0 8 = 1 := by
  have hnode : s.stc.nodeId.val < 2 ^ 4 := s.stc.nodeId.isLt
  have hcause : resetCauseCode s.stc.resetCause < 2 ^ 4 := by cases s.stc.resetCause <;> decide
  have hrev : Config.revision < 2 ^ 8 := by decide
  refine ⟨_, rfl, ?_, ?_, ?_⟩ <;> simp only [field_or]
  · rw [field_place_low _ (by decide), field_place_self hnode (by decide), field_place_above hcause (by decide) (by decide),
      field_place_above hrev (by decide) (by decide)]
    simp
  · rw [field_place_low _ (by decide), field_place_low _ (by decide), field_place_self hcause (by decide),
      field_place_above hrev (by decide) (by decide)]
    simp
  · rw [field_place_low _ (by decide), field_place_low _ (by decide), field_place_low _ (by decide),
      field_place_self hrev (by decide)]
    rfl

/-- Settles O7: each command's mark by its event, and the Announce's field by the places of its second word. -/
theorem resetCauseNamesLastReset : Obligations.ResetCauseNamesLastReset := by
  refine ⟨fun straps s t h => ?power, fun straps s t h => ?pin, fun dest straps s t h => exec_resetCause h nofun nofun,
    fun lane rx straps s t h => exec_resetCause h nofun nofun, fun c s t h hp hr hs ha => ?others, fun s => ?announce⟩
  case power =>
    cases h
    rfl
  case pin =>
    cases h
    rfl
  case others =>
    obtain ⟨e, he, hrel⟩ := exec_brings h
    refine (hrel.keepsCause ?_ ?_ ?_).1
    · rintro rfl
      obtain ⟨straps, rfl⟩ := powerOn_of_poweredOn he
      exact hp straps rfl
    · rintro rfl
      obtain ⟨straps, rfl⟩ := pinReset_of_pinReset he
      exact hr straps rfl
    · rintro rfl
      rcases carrier_of_stationReset he with ⟨dest, straps, rfl⟩ | ⟨lane, rx, straps, rfl⟩
      · exact hs dest straps rfl
      · exact ha lane rx straps rfl
  case announce =>
    obtain ⟨w, hw, -, hcause, -⟩ := announce_station_fields s
    rw [hw, Option.map_some, hcause]
    cases s.stc.resetCause <;> rfl

/-! ### The Stop Record (R35) -/

/-- The Stop Record and the stops of an event that is no power-on: it is written whole at a stop, and else kept. -/
structure StopsAsR35 (s t : State) : Prop where
  isolated : t.stc.station = .isolated → s.stc.station ≠ .isolated →
    t.stc.stop = { cause := .referenceLoss, position := s.rfr.position, left := stateLeftOf s.stc.station }
  nodeInUse : t.stc.station = .silent → s.stc.station = .listening →
    t.stc.stop = { cause := .nodeInUse, position := s.rfr.position, left := .listening }
  laneConflict : t.stc.station = .silent → s.stc.station = .joining ∨ s.stc.station = .contributing →
    t.stc.stop = { cause := .laneConflict, position := s.rfr.position, left := stateLeftOf s.stc.station }
  kept : (t.stc.station = .isolated ∨ t.stc.station = .silent → t.stc.station = s.stc.station) → t.stc.stop = s.stc.stop

/-- Where no stop is entered the record is kept. -/
theorem StopsAsR35.of_kept {s t : State} (hstop : t.stc.stop = s.stc.stop)
    (hi : t.stc.station = .isolated → s.stc.station = .isolated) (hs : t.stc.station = .silent → s.stc.station = .silent) :
    StopsAsR35 s t where
  isolated h hn := absurd (hi h) hn
  nodeInUse h hn := by simp [hs h] at hn
  laneConflict h hn := by simp [hs h] at hn
  kept _ := hstop

theorem StationEvent.Relates.stops {e : StationEvent} {s t : State} (h : e.Relates s t) (hp : e ≠ .poweredOn) :
    StopsAsR35 s t := by
  cases e with
  | poweredOn => exact absurd rfl hp
  | kept =>
    obtain ⟨hst, -, -, -, -, hstop, -⟩ := h
    exact .of_kept hstop (fun hi => hst ▸ hi) (fun hs => hst ▸ hs)
  | pinReset =>
    obtain ⟨hst, -, hstop, -⟩ := h
    exact .of_kept hstop (by simp [hst]) (by simp [hst])
  | stationReset =>
    obtain ⟨-, hst, -, hstop, -⟩ := h
    exact .of_kept hstop (by simp [hst]) (by simp [hst])
  | booted =>
    obtain ⟨-, hst, -, hstop, -⟩ := h
    exact .of_kept hstop (by simp [hst]) (by simp [hst])
  | strobed p =>
    obtain ⟨-, -, hstop, ⟨-, hst⟩ | ⟨-, hst⟩ | ⟨-, hst⟩⟩ := h
    · exact .of_kept hstop (fun hi => hst ▸ hi) (fun hs => hst ▸ hs)
    · exact .of_kept hstop (by simp [hst]) (by simp [hst])
    · exact .of_kept hstop (by simp [hst]) (by simp [hst])
  | lost =>
    obtain ⟨-, -, -, hstc⟩ := h
    cases hl : takesChanges s with
    | false =>
      rw [hl] at hstc
      exact .of_kept (by simp [hstc]) (by simp [hstc]) (by simp [hstc])
    | true =>
      rw [hl] at hstc
      have left : s.stc.station ≠ .isolated := fun hs => by simp [takesChanges, hs] at hl
      refine ⟨fun _ _ => by rw [hstc]; rfl, ?_, ?_, fun hk => ?_⟩
      · simp [hstc, stopIn]
      · simp [hstc, stopIn]
      · exact absurd (hk (.inl (by rw [hstc]; rfl))).symm (by simpa [hstc, stopIn] using left)
  | joins =>
    obtain ⟨-, hstc, -⟩ := h
    exact .of_kept (by rw [hstc]) (by simp [hstc]) (by simp [hstc])
  | nodeInUse =>
    obtain ⟨hl, hstc, -⟩ := h
    have hs : s.stc.station = .listening := hl
    refine ⟨by simp [hstc], fun _ _ => by rw [hstc, hs]; rfl, by simp [hs], fun hk => ?_⟩
    simp [hstc, hs] at hk
  | laneConflict =>
    obtain ⟨hd, hstc, -⟩ := h
    have hd : drivesLane s = true := hd
    refine ⟨by simp [hstc], fun _ hl => ?_, fun _ _ => by rw [hstc], fun hk => ?_⟩
    · simp [drivesLane, hl] at hd
    · have hs : s.stc.station = .silent := by simpa [hstc, eq_comm] using hk
      simp [drivesLane, hs] at hd
  | readBack =>
    obtain ⟨-, b, -, hstc, -⟩ := h
    exact .of_kept (by rw [hstc]) (by simp [hstc]) (by simp [hstc])

/-- Settles O8: the record at each event of a command, and the Announce's words of it. -/
theorem stopRecordWrittenAtStops : Obligations.StopRecordWrittenAtStops := by
  refine ⟨fun s => ⟨rfl, ?announce⟩, ⟨rfl, rfl, rfl⟩, fun c s t h => ?commands⟩
  case announce =>
    have hcause : stopCauseCode s.stc.stop.cause < 2 ^ 8 := by cases s.stc.stop.cause <;> decide
    have hleft : stateLeftCode s.stc.stop.left < 2 ^ 8 := by cases s.stc.stop.left <;> decide
    have fields : ((announceWords s)[2]?).map (fun w => (field w 24 8, field w 16 8)) =
        some (stopCauseCode s.stc.stop.cause, stateLeftCode s.stc.stop.left) := by
      simp only [announceWords, List.getElem?_cons_succ, List.getElem?_cons_zero, Option.map_some, field_or]
      rw [field_place_self hcause (by decide), field_place_above hleft (by decide) (by decide),
        field_place_below hcause (by decide) (by decide), field_place_self hleft (by decide), Nat.or_zero, Nat.zero_or]
    rw [fields]
    cases s.stc.stop.cause <;> cases s.stc.stop.left <;> rfl
  case commands =>
    by_cases hc : ∃ straps, c = .powerOn straps
    · obtain ⟨straps, rfl⟩ := hc
      cases h
      exact ⟨nofun, nofun, nofun, fun _ => rfl, fun hn => absurd rfl (hn straps)⟩
    · obtain ⟨e, he, hrel⟩ := exec_brings h
      obtain ⟨isolated, nodeInUse, laneConflict, kept⟩ := hrel.stops fun hp => hc (powerOn_of_poweredOn (hp ▸ he))
      exact ⟨fun ⟨ht, hs⟩ => isolated ht hs, fun ⟨ht, hs⟩ => nodeInUse ht hs, fun ⟨ht, hs⟩ => laneConflict ht hs,
        fun hp => absurd hp hc, fun _ => kept⟩

end Sys2Proof.Machine
end

section
/-! Resets, the boot read, a Loss, the asserted pin, the settings no command but a strobe or a reset moves, the conditions, and
the messages addressed to the station (R22 to R24, R29, R31 to R36, R39, R75, R110, R143, R148 to R150, R177, R178). -/

namespace Sys2Proof.Machine

/-! ### The settings (R30, R39, R40, R75, R170) -/

/-- The Channel Table and the Group Table are kept. -/
def KeepsSettings (s t : State) : Prop :=
  t.sst = s.sst ∧ t.gsu.groups = s.gsu.groups

/-- Where no change is taken a strobe flushes at most. -/
theorem changesAtStrobe_of_idle (e : StrobeEvent) {s : State} (h : takesChanges s = false) :
    changesAtStrobe e s = if flushes e then flushQueue s else s := by
  have idle : takesChanges (if flushes e then flushQueue s else s) = false := by
    rw [← h]
    exact takesChanges_congr (by split <;> simp)
  unfold changesAtStrobe
  dsimp only
  rw [idle]
  rfl

/-- Where no change stands a strobe applies none. -/
theorem changesAtStrobe_of_cleared (e : StrobeEvent) {s : State} (h : s.chs = Chs.cleared) : changesAtStrobe e s = s := by
  have flushed : (if flushes e then flushQueue s else s) = s := by
    split
    · rw [flushQueue, h]
      exact (congrArg s.setChs h.symm).trans s.setChs_self
    · rfl
  have applied : applyDueChanges s = s := by
    unfold applyDueChanges ripeEntries
    rw [h]
    exact (congrArg s.setChs h.symm).trans s.setChs_self
  unfold changesAtStrobe
  dsimp only
  rw [flushed, applied, ite_self]

theorem changesAtStrobe_keepsSettings (e : StrobeEvent) {s : State} (h : takesChanges s = false ∨ s.chs = Chs.cleared) :
    KeepsSettings s (changesAtStrobe e s) := by
  rcases h with h | h
  · rw [changesAtStrobe_of_idle e h]
    split <;> simp [KeepsSettings]
  · rw [changesAtStrobe_of_cleared e h]
    exact ⟨rfl, rfl⟩

/-- A strobe in Booting, Silent or Isolated leaves the settings (R30, R32, R170). -/
theorem strobeTaken_keepsSettings (p : Position) (inputs : Table 48 Sample) {s : State} (h : takesChanges s = false) :
    KeepsSettings s (strobeTaken p inputs s) := by
  by_cases hb : s.stc.station = .booting
  · rw [strobeTaken_booting p inputs hb]
    simp [KeepsSettings]
  · have idle : takesChanges (takeStrobe p s) = false := by
      rw [← h]
      exact takesChanges_congr (by simp)
    have nothing : takesChanges (closeFrame (stationAtStrobe (takeStrobe p s))) = false ∨
        (closeFrame (stationAtStrobe (takeStrobe p s))).chs = Chs.cleared := by
      rw [takesChanges_congr (s := stationAtStrobe (takeStrobe p s)) (by simp)]
      rcases stationAtStrobe_changes (takeStrobe p s) with ⟨hst, -⟩ | hchs
      · exact .inl (hst.trans idle)
      · exact .inr (by simpa using hchs)
    obtain ⟨hsst, hgroups⟩ := changesAtStrobe_keepsSettings (classify s.rfr p) nothing
    rw [strobeTaken_eq p inputs s hb]
    exact ⟨by simp [formedAtStrobe, hsst], by simp [formedAtStrobe, hgroups]⟩

theorem KeepsSettings.ite {p : Prop} [Decidable p] {s t : State} (h : KeepsSettings s t) :
    KeepsSettings s (if p then t else s) := by
  split
  · exact h
  · exact ⟨rfl, rfl⟩

theorem KeepsSettings.unlessPinned {f : State → State} {s : State} (h : KeepsSettings s (f s)) :
    KeepsSettings s (unlessPinned f s) := by
  unfold Machine.unlessPinned
  split
  · exact ⟨rfl, rfl⟩
  · exact h

theorem applyRamp_keepsSettings (r : RampId) (s : State) : KeepsSettings s (applyRamp r s) := by
  unfold applyRamp
  split <;> split <;> simp [KeepsSettings]

/-- Settles O32: each command's operation leaves both tables, and a strobe that takes no change does. -/
theorem settingsChangeOnlyAtStrobes : Obligations.SettingsChangeOnlyAtStrobes := by
  intro c s t h hp hr hstrobe
  have next : ∀ {u : State}, Host.Outcome.next (φ := Fault) (ρ := Refusal) u = .next t → KeepsSettings s u →
      KeepsSettings s t := by
    intro u e; cases e; exact id
  change KeepsSettings s t
  cases c with
  | powerOn straps => exact absurd rfl (hp straps)
  | pinReset straps => exact absurd rfl (hr straps)
  | strobe p inputs =>
    have idle : takesChanges s = false := hstrobe.resolve_left fun hn => hn p inputs rfl
    refine next h ?_
    split
    · exact ⟨rfl, rfl⟩
    · exact strobeTaken_keepsSettings p inputs idle
  | resetPinAsserted | lockGained | lockLost => exact next h (by simp [KeepsSettings])
  | stationReset | stripSet | stripQuery | groupLevel | bind | watch | unwatch | rearm | clearConditions | rollCall =>
    exact next h (.unlessPinned (by simp [KeepsSettings]))
  | pendingSetApplication ramp => exact next h (.ite (applyRamp_keepsSettings ramp s))
  | bootReadComplete | bootReadNoAnswer | loss | laneArrival | laneLost | laneConflict | joiningComplete | endOfListening
  | windowEnd | setClose => exact next h (.ite (by simp [KeepsSettings]))

/-! ### A pin reset (R33, R110, R122) -/

/-- With the aligned depths at 0 a slot's delay target is the whole 14 (R103, R110). -/
theorem slotTarget_reset {s : State} (h : s.alu = Alu.default) (b : Bus) : slotTarget s b = 14 := by
  have add := slotTarget_add s b
  have zero : s.alu.aligned.get b = 0 := by rw [h]; exact Table.get_fill _ b
  rw [zero] at add
  exact Fin.ext add

/-- The slots after a pin reset: assignments kept, Held, with nothing pending, an assigned one at delay 14. -/
theorem pinResetTaken_slot (straps : BitVec 4) (s : State) (o : SlotIx) :
    ((pinResetTaken straps s).mxd.slots.get o).bus = (s.mxd.slots.get o).bus ∧
    ((pinResetTaken straps s).mxd.slots.get o).ramp = { state := .held, k := 0 } ∧
    ((pinResetTaken straps s).mxd.slots.get o).pending = none ∧
    ((s.mxd.slots.get o).bus ≠ none → ((pinResetTaken straps s).mxd.slots.get o).delay = 14) := by
  simp only [pinResetTaken, State.setMxd_mxd, Table.get_make]
  refine ⟨rfl, rfl, rfl, fun hb => ?_⟩
  obtain ⟨b, hb⟩ := Option.ne_none_iff_exists'.mp hb
  simp only [resetSlot, hb]
  exact slotTarget_reset rfl b

/-- Settles O4: a pin reset is a power-on with the kept records and the slots written over it. -/
theorem pinResetKeepsStopRecord : Obligations.PinResetKeepsStopRecord := by
  intro straps s
  exact ⟨pinResetTaken straps s, powerOnReset straps s, rfl, rfl, rfl, rfl, rfl, rfl, rfl, rfl, rfl, rfl, rfl, rfl, rfl,
    pinResetTaken_slot straps s⟩

/-! ### The end of the boot read (R22 to R24, R29, R103, R124) -/

theorem recordPasses_iff (r : Table 22 Byte) :
    recordPasses r = true ↔ (r.get 0).toNat = 0x4D ∧ (r.cells.map BitVec.toNat).sum % 256 = 0 := by
  simp [recordPasses]

theorem exec_bootReadComplete {s : State} (record : Table 22 Byte) (h : s.stc.station = .booting) :
    exec (.bootReadComplete record) s =
      .next (bootReadEnds (if recordPasses record then some (recordSettings record) else none) s) := by
  show Host.Outcome.next _ = _
  rw [if_pos h]

theorem exec_bootReadNoAnswer {s : State} (h : s.stc.station = .booting) :
    exec .bootReadNoAnswer s = .next (bootReadEnds none s) := by
  show Host.Outcome.next _ = _
  rw [if_pos h]

/-- With settings to take, the boot read writes them, the strip base, the slots and the timer. -/
theorem bootReadEnds_some (b : BootSettings) (s : State) : bootReadEnds (some b) s = { s with
    stc := { s.stc with
      station := .listening, listeningCount := 0, boot := b, stripBase := stripBaseOf b s.stc.nodeId }
    rfr := { s.rfr with timer := .running }
    mxd := { s.mxd with slots := Table.make fun o => bootSlot s (b.slots.get o) } } := rfl

/-- The strip base of a record that passes: the forced one clamped, else the node ID's (R24). -/
theorem stripBaseOf_recordSettings (r : Table 22 Byte) (node : LaneIx) : stripBaseOf (recordSettings r) node =
    if (r.get 1).getLsbD 0 then min ((r.get 2).toNat * 256 + (r.get 3).toNat) 720 else node.val * 48 := by
  have bytes : (r.get 2 ++ r.get 3).toNat = (r.get 2).toNat * 256 + (r.get 3).toNat := by
    have h3 : (r.get 3).toNat < 2 ^ 8 := (r.get 3).isLt
    rw [BitVec.toNat_append, ← Nat.shiftLeft_add_eq_or_of_lt h3, Nat.shiftLeft_eq]
  simp only [stripBaseOf, recordSettings, bytes]

/-- The default settings assign no slot. -/
theorem bootSlots_default (s : State) : (Table.make fun o => bootSlot s (failedSettings.slots.get o)) =
    Table.fill 16 { bus := none, delay := 0, ramp := { state := .held, k := 0 }, pending := none } := by
  refine Table.ext_get fun o => ?_
  have none : failedSettings.slots.get o = none := Table.get_fill _ o
  rw [Table.get_make, Table.get_fill, none]
  rfl

/-- With none, the defaults are written and BootFault is raised under their mask. -/
theorem bootReadEnds_none (s : State) :
    bootReadEnds none s = { raise .bootFault { s with stc := { s.stc with boot := BootSettings.default } } with
      stc := { (raise .bootFault { s with stc := { s.stc with boot := BootSettings.default } }).stc with
        station := .listening, listeningCount := 0, stripBase := s.stc.nodeId.val * 48 }
      rfr := { s.rfr with timer := .running }
      mxd := { s.mxd with
        slots := Table.fill 16 { bus := none, delay := 0, ramp := { state := .held, k := 0 }, pending := none } } } := by
  rw [← bootSlots_default s]
  simp only [bootReadEnds, raise_eq]
  rfl

/-- The slots after a boot read stand Held at the delays of their buses. -/
theorem bootSlot_fields (s : State) (b : Option Bus) :
    (bootSlot s b).bus = b ∧ (bootSlot s b).ramp = { state := .held, k := 0 } ∧ (bootSlot s b).pending = none ∧
    ∀ x, b = some x → (bootSlot s b).delay.val + (s.alu.aligned.get x).val = 14 := by
  refine ⟨rfl, rfl, rfl, ?_⟩
  rintro x rfl
  exact slotTarget_add s x

/-- The slots a boot read sets are those of the settings it takes. -/
theorem bootReadEnds_slot (settings : Option BootSettings) (s : State) (o : SlotIx) :
    (bootReadEnds settings s).mxd.slots.get o = bootSlot s ((bootReadEnds settings s).stc.boot.slots.get o) := by
  cases settings with
  | some b =>
    rw [bootReadEnds_some]
    exact Table.get_make _ o
  | none =>
    have boot : (bootReadEnds none s).stc.boot = failedSettings := by simp [bootReadEnds, takeSettings]
    rw [boot, bootReadEnds_none]
    dsimp only
    rw [← bootSlots_default s]
    exact Table.get_make _ o

/-- Settles O9: the two ends of the boot read, and the slots of either. -/
theorem bootReadEndsInListening : Obligations.BootReadEndsInListening := by
  intro record s hb
  refine ⟨_, _, exec_bootReadComplete record hb, exec_bootReadNoAnswer hb, fun hpass => ?passes, fun hfail => ?fails,
    bootReadEnds_none s, fun o => ?slots⟩
  case passes =>
    rw [if_pos ((recordPasses_iff record).mpr hpass), bootReadEnds_some, stripBaseOf_recordSettings]
    exact ⟨rfl, fun o => Table.get_make _ o⟩
  case fails => rw [if_neg fun h => hfail ((recordPasses_iff record).mp h)]
  case slots =>
    rw [bootReadEnds_slot]
    exact bootSlot_fields s _

/-! ### The asserted pin and a Loss (R29, R31, R33, R35, R127, R133, R134) -/

theorem unlessPinned_pinned {s : State} (h : s.resetPin = true) (f : State → State) : unlessPinned f s = s := by
  rw [unlessPinned, if_pos h]

theorem unlessPinned_released {s : State} (h : s.resetPin = false) (f : State → State) : unlessPinned f s = f s := by
  rw [unlessPinned, if_neg (by simp [h])]

/-- Settles O5: the asserted pin as it is written, and each command that needs a strobe or an arrival dropped under it. -/
theorem assertedResetPinSilencesEngine : Obligations.AssertedResetPinSilencesEngine := by
  refine ⟨fun s => ⟨pinAsserted s, rfl, rfl, rfl⟩, fun s h => ?_⟩
  have pinned : ∀ f, Host.Outcome.next (φ := Fault) (ρ := Refusal) (unlessPinned f s) = .next s :=
    fun f => congrArg _ (unlessPinned_pinned h f)
  have strobe : ∀ p i, exec (.strobe p i) s = .next s := by
    intro p i
    show Host.Outcome.next _ = _
    rw [if_pos h]
  exact ⟨strobe, fun lane rx straps => exec_laneArrival_untaken lane rx straps (.inl (by simp [hearsLanes, h])),
    fun _ _ => pinned _, fun _ _ _ _ _ => pinned _, fun _ _ _ => pinned _, fun _ _ _ _ => pinned _, fun _ _ => pinned _,
    fun _ => ⟨pinned _, pinned _, pinned _⟩, fun _ _ => pinned _, fun _ => pinned _⟩

/-- Settles O11: a Loss writes the blocks, and the station's record where the station is on the link. -/
theorem lossIsolatesStation : Obligations.LossIsolatesStation := by
  intro s ht hr
  refine ⟨lossTaken s, ?exec, ?_⟩
  case exec =>
    show Host.Outcome.next _ = _
    rw [if_pos ⟨ht, hr⟩]
  cases hl : takesChanges s with
  | true =>
    rw [lossTaken, if_pos hl]
    exact ⟨rfl, fun _ => rfl, nofun⟩
  | false =>
    rw [lossTaken, if_neg (by simp [hl])]
    exact ⟨rfl, nofun, fun _ => rfl⟩

/-! ### Conditions and the alert line (R36, R177, R178) -/

/-- A flag that is set stays as it is at a further occurrence. -/
theorem withCondition_of_set {bits : Byte} {c : Condition} (h : conditionBit bits c = true) : withCondition bits c = bits := by
  refine BitVec.eq_of_getLsbD_eq fun n hn => ?_
  rw [withCondition_bit bits c ⟨n, hn⟩]
  by_cases hc : n = conditionNumber c
  · subst hc
    rw [conditionBit] at h
    simp [h]
  · simp [hc]

/-- Class 1 after an occurrence, by the flag, the mask and the room (R178). -/
theorem noticesAfter_eq (c : Condition) (s : State) : noticesAfter c s =
    if s.stc.conditions.getLsbD (conditionNumber c) = false ∧ s.stc.boot.noticeMask.getLsbD (conditionNumber c) = false ∧
      s.mse.notices.length + inProgressCount s.mse .notice < 8 then
      s.mse.notices ++ [{ condition := c, position := s.rfr.position }] else s.mse.notices := by
  simp only [noticesAfter, conditionBit, Bool.and_eq_true, Bool.not_eq_true', decide_eq_true_eq, and_assoc]

/-- A condition whose flag is set changes nothing when it occurs (R177). -/
theorem raise_of_set {c : Condition} {s : State} (h : conditionBit s.stc.conditions c = true) : raise c s = s := by
  have quiet : noticesAfter c s = s.mse.notices := by simp [noticesAfter, h]
  rw [raise_eq, withCondition_of_set h, quiet]
  rfl

theorem alertLine_iff {s : State} (h : s.resetPin = false) : alertLine s = true ↔
    s.stc.station = .silent ∨ s.stc.station = .isolated ∨ s.stc.conditions.getLsbD 6 = true := by
  simp [alertLine, h, conditionBit, conditionNumber, or_assoc]

/-- Settles O55: an occurrence writes the flag and class 1 alone, and the alert line reads the station and flag 6. -/
theorem conditionsRaiseFlagNoticeAndAlert : Obligations.ConditionsRaiseFlagNoticeAndAlert := by
  refine ⟨⟨rfl, rfl, rfl, rfl, rfl, rfl, rfl, rfl⟩, fun c s => ⟨fun n => ?flag, ?notices, ?frame, raise_of_set⟩,
    fun s => ⟨alertLine_iff, fun h => by simp [alertLine, h]⟩⟩
  case flag =>
    rw [raise_eq]
    exact withCondition_bit s.stc.conditions c n
  case notices =>
    rw [raise_eq]
    exact noticesAfter_eq c s
  case frame =>
    rw [raise_eq]
    rfl

/-! ### Messages to the station (R143, R148 to R150) -/

theorem addressed_iff (s : State) (dest : BitVec 5) :
    addressed s dest = true ↔ dest.toNat = s.stc.nodeId.val ∨ dest.toNat = 31 := by
  simp [addressed]

section
variable {dest : BitVec 5} {allowed : State → Bool} {s : State}

theorem onStation_acted (act : State → State) (h30 : dest.toNat ≠ 30) (ha : allowed s = true)
    (hd : dest.toNat = s.stc.nodeId.val ∨ dest.toNat = 31) : onStation dest allowed act s = act s := by
  rw [onStation, if_neg h30, ha, (addressed_iff s dest).mpr hd]
  rfl

/-- In a state that drops it, or addressed elsewhere, a station-addressed message changes nothing (R143). -/
theorem onStation_dropped (act : State → State) (h30 : dest.toNat ≠ 30)
    (h : allowed s = false ∨ dest.toNat ≠ s.stc.nodeId.val ∧ dest.toNat ≠ 31) : onStation dest allowed act s = s := by
  rw [onStation, if_neg h30, if_neg]
  rw [Bool.and_eq_true, addressed_iff]
  rintro ⟨ha, hd⟩
  rcases h with h | ⟨hn, h31⟩
  · rw [h] at ha
    cases ha
  · exact hd.elim hn h31

end

/-- A strip outside this engine's range names no channel (R24, R138). -/
theorem stripChannel_eq_none {s : State} {strip : BitVec 16}
    (h : strip.toNat < s.stc.stripBase ∨ s.stc.stripBase + 48 ≤ strip.toNat) : stripChannel s strip = none := by
  rw [stripChannel, dif_neg (by omega)]

/-- In a state that drops it, or for a strip out of range, a strip-addressed message changes nothing (R143). -/
theorem onStrip_dropped {s : State} {strip : BitVec 16} (act : Chan → State → State)
    (h : takesChanges s = false ∨ strip.toNat < s.stc.stripBase ∨ s.stc.stripBase + 48 ≤ strip.toNat) :
    onStrip strip act s = s := by
  rcases h with h | h
  · simp [onStrip, h]
  · simp [onStrip, stripChannel_eq_none h]

/-- Where messages are dropped a malformed one raises nothing (R142). -/
theorem messageFault_dropped {s : State} (h : takesChanges s = false) : messageFault s = s := by
  simp [messageFault, raiseIf, h]

theorem takeBind_dropped {s : State} (h : takesChanges s = false) (lane : LaneIx) (n : Word) : takeBind lane n s = s := by
  simp [takeBind, h, messageFault_dropped h]

/-- Clearing flags leaves a flag where its mask bit is clear (R148). -/
theorem clearFlags_bit (mask : Byte) (s : State) (n : Fin 8) : (clearFlags mask s).stc.conditions.getLsbD n.val =
    (s.stc.conditions.getLsbD n.val && !mask.getLsbD n.val) := by
  simp [clearFlags]

/-- Settles O54: each message acted on by its operation, or dropped where R143 does not act on it. -/
theorem clearConditionsAndRollCall : Obligations.ClearConditionsAndRollCall := by
  have taken : ∀ {s : State}, s.resetPin = false → ∀ {f : State → State} {t : State}, f s = t →
      Host.Outcome.next (φ := Fault) (ρ := Refusal) (unlessPinned f s) = .next t :=
    fun hpin _ _ hf => congrArg _ ((unlessPinned_released hpin _).trans hf)
  refine ⟨fun dest mask s hpin h30 => ?station, fun s hpin => ⟨fun strip hstrip => ?strip, fun hl lane => ?lane⟩⟩
  case station =>
    have hn30 : dest.toNat ≠ 30 := fun h => h30 (BitVec.eq_of_toNat_eq h)
    refine ⟨fun ⟨hl, hd⟩ => ⟨⟨clearFlags mask s, ?clear, rfl, clearFlags_bit mask s⟩, ?announce⟩, fun h => ⟨?_, ?_⟩,
      fun h straps => ?_⟩
    case clear => exact taken hpin (onStation_acted _ hn30 hl hd)
    case announce => exact taken hpin (onStation_acted _ hn30 hl hd)
    all_goals exact taken hpin (onStation_dropped _ hn30 h)
  case strip =>
    exact ⟨taken hpin (onStrip_dropped _ hstrip), taken hpin (onStrip_dropped _ hstrip),
      taken hpin (onStrip_dropped _ hstrip), fun _ _ => taken hpin (onStrip_dropped _ hstrip)⟩
  case lane =>
    exact ⟨fun _ _ _ _ => taken hpin (by simp [takeStripSet, hl]), fun _ _ _ => taken hpin (by simp [takeGroupLevel, hl]),
      fun _ => taken hpin (takeBind_dropped hl lane _)⟩

end Sys2Proof.Machine
end

section
/-! The frame a strobe forms, channel by channel, and the two strobes that enter a station state: the end of Isolated and the
entry to Contributing (R27, R32, R53, R65, R66, R69, R74, R112, R116, R121, R122, R124, R130, R178). -/

namespace Sys2Proof.Machine

/-! ### The paths of a frame (R53, R64, R66, R74, R116, R121, R130) -/

/-- A channel's path in the frame formed from the path its ramp left: one glide step for each send, the meter coefficient at its
target, the sample of the source in force. -/
def framePath (s : State) (inputs : Table 48 Sample) (c : Chan) (q : ChannelPath) : ChannelPath :=
  { q with
    history := Table.push (sourceSample s inputs q.source) q.history
    sends := Table.make fun k => glideStep (q.sends.get k) (sendTarget s c k)
    meterCoef := meterTarget s c }

/-- What a channel's ramp leaves at a strobe: the join fade-in at the entry to Contributing, else one step. -/
def rampedPath (entering : Bool) (p : ChannelPath) : ChannelPath :=
  if entering then joinPath p else stepPath p

/-- What a slot's ramp leaves at a strobe. -/
def rampedSlot (entering : Bool) (p : SlotPath) : SlotPath :=
  if entering then joinSlot p else stepSlot p

theorem rampsAtStrobe_mxd (entering : Bool) (s : State) :
    (∀ c, pathAt (rampsAtStrobe entering s) c = rampedPath entering (pathAt s c)) ∧
    (∀ o, (rampsAtStrobe entering s).mxd.slots.get o = rampedSlot entering (s.mxd.slots.get o)) ∧
    (rampsAtStrobe entering s).mxd.locks = s.mxd.locks ∧ (rampsAtStrobe entering s).mxd.busHistory = s.mxd.busHistory := by
  cases entering <;>
    simp [rampsAtStrobe, rampedPath, rampedSlot, joinFadeIn, stepRamps, mapPaths, pathAt]

/-- A source's sample reads the locks and the bus histories (R53). -/
theorem sourceSample_congr {s t : State} (hl : t.mxd.locks = s.mxd.locks) (hh : t.mxd.busHistory = s.mxd.busHistory)
    (inputs : Table 48 Sample) (src : Source) : sourceSample t inputs src = sourceSample s inputs src := by
  simp only [sourceSample, hl, hh]

/-- The path of a frame reads the tables, the alignment state, the locks and the bus histories. -/
theorem framePath_congr {s t : State} (h1 : t.sst = s.sst) (h2 : t.gsu = s.gsu) (h3 : t.alu = s.alu)
    (hl : t.mxd.locks = s.mxd.locks) (hh : t.mxd.busHistory = s.mxd.busHistory) (inputs : Table 48 Sample) (c : Chan)
    (q : ChannelPath) : framePath t inputs c q = framePath s inputs c q := by
  simp only [framePath, sourceSample_congr hl hh, sendTarget_congr h1 h2 h3, meterTarget_congr h1 h2 h3]

/-- The datapath of a frame formed: each channel's path, each slot's, and the locks and histories it leaves. -/
theorem formFrame_mxd (entering : Bool) (inputs : Table 48 Sample) (s : State) :
    (∀ c, pathAt (formFrame entering inputs s) c = framePath s inputs c (rampedPath entering (pathAt s c))) ∧
    (∀ o, (formFrame entering inputs s).mxd.slots.get o = rampedSlot entering (s.mxd.slots.get o)) ∧
    (formFrame entering inputs s).mxd.locks = s.mxd.locks ∧
    (formFrame entering inputs s).mxd.busHistory = s.mxd.busHistory := by
  obtain ⟨hpath, hslot, hlocks, hhist⟩ := rampsAtStrobe_mxd entering s
  refine ⟨fun c => ?_, fun o => hslot o, hlocks, hhist⟩
  have formed : pathAt (formFrame entering inputs s) c =
      framePath (rampsAtStrobe entering s) inputs c (pathAt (rampsAtStrobe entering s) c) := by
    have sample : ∀ src, sourceSample (formCoefficients (rampsAtStrobe entering s)) inputs src =
        sourceSample (rampsAtStrobe entering s) inputs src := sourceSample_congr rfl rfl inputs
    simp only [pathAt, formFrame, enterSamples, State.setMxd_mxd, Table.get_make, sample]
    simp [formCoefficients, framePath, pathAt]
  rw [formed, framePath_congr (s := s) (by simp) (by simp) (by simp) hlocks hhist, hpath]

/-- The state in which a strobe forms the frame: the station moved, the frame before closed, the changes applied. -/
def changedAtStrobe (p : Position) (s : State) : State :=
  changesAtStrobe (classify s.rfr p) (closeFrame (stationAtStrobe (takeStrobe p s)))

/-- The settings a strobe leaves are those it forms the frame from. -/
theorem strobeTaken_settings (p : Position) (inputs : Table 48 Sample) {s : State} (hb : s.stc.station ≠ .booting) :
    (strobeTaken p inputs s).sst = (changedAtStrobe p s).sst ∧ (strobeTaken p inputs s).gsu = (changedAtStrobe p s).gsu ∧
    (strobeTaken p inputs s).alu = (changedAtStrobe p s).alu := by
  rw [strobeTaken_eq p inputs s hb]
  simp [formedAtStrobe, changedAtStrobe]

/-- Each channel's path after a strobe outside Booting, its targets and sample read off the state after it. -/
theorem pathAt_strobeTaken (p : Position) (inputs : Table 48 Sample) {s : State} (hb : s.stc.station ≠ .booting) (c : Chan) :
    pathAt (strobeTaken p inputs s) c = framePath (strobeTaken p inputs s) inputs c
      (rampedPath (entersContributing s) (pathAt (changedAtStrobe p s) c)) := by
  obtain ⟨hsst, hgsu, halu⟩ := strobeTaken_settings p inputs hb
  obtain ⟨hchannels, -, hhist, hlocks, -⟩ := openByStation_mxd s (formedAtStrobe p inputs s)
  obtain ⟨hpath, -, hlocks', hhist'⟩ := formFrame_mxd (entersContributing s) inputs (changedAtStrobe p s)
  rw [framePath_congr (s := changedAtStrobe p s) hsst hgsu halu]
  · rw [← hpath c, strobeTaken_eq p inputs s hb, pathAt, hchannels]
    rfl
  · rw [strobeTaken_eq p inputs s hb, hlocks]
    exact hlocks'
  · rw [strobeTaken_eq p inputs s hb, hhist]
    exact hhist'

/-- Each slot's path after a strobe outside Booting. -/
theorem slot_strobeTaken (p : Position) (inputs : Table 48 Sample) {s : State} (hb : s.stc.station ≠ .booting) (o : SlotIx) :
    (strobeTaken p inputs s).mxd.slots.get o =
      rampedSlot (entersContributing s) ((changedAtStrobe p s).mxd.slots.get o) := by
  obtain ⟨-, hslots, -⟩ := openByStation_mxd s (formedAtStrobe p inputs s)
  obtain ⟨-, hslot, -⟩ := formFrame_mxd (entersContributing s) inputs (changedAtStrobe p s)
  rw [strobeTaken_eq p inputs s hb, hslots]
  exact hslot o

/-- A glide step moves the coefficient and the glide alone. -/
theorem glideStep_keeps (p : SendPath) (t : Nat) : (glideStep p t).bus = p.bus ∧ (glideStep p t).delay = p.delay := by
  have start : (startGlide p t).bus = p.bus ∧ (startGlide p t).delay = p.delay := by
    unfold startGlide
    split <;> exact ⟨rfl, rfl⟩
  unfold glideStep
  split
  · exact start
  · split
    · exact ⟨rfl, rfl⟩
    · exact start

/-- Forming a frame leaves the delay each send would have once its pending set were applied. -/
theorem effectiveDelay_framePath (s : State) (inputs : Table 48 Sample) (c : Chan) (q : ChannelPath) (k : SendIx) :
    effectiveDelay (framePath s inputs c q) k = effectiveDelay q k := by
  simp [effectiveDelay, framePath, glideStep_keeps]

/-! ### A settling of Held ramps (R102, R103, R119) -/

theorem pathAt_settle (s : State) (c : Chan) : pathAt (settle s) c = postChannelDelays (s.setAlu (settled s).1) c := by
  simp [pathAt, settle, postDelays]

theorem slot_settle (s : State) (o : SlotIx) :
    (settle s).mxd.slots.get o = postSlot (s.setAlu (settled s).1) (s.mxd.slots.get o) := by
  simp [settle, postDelays]

/-- Delay items posted to a Held ramp for the sends of a list that differ from their targets fill their places alone. -/
theorem foldl_postDelay_held (differs : SendIx → Prop) [DecidablePred differs] (target : SendIx → Depth) (l : List SendIx)
    (p : ChannelPath) (h : p.ramp.state = .held) :
    l.foldl (fun q k => if differs k then postDelay k (target k) q else q) p =
      { p with pending := { p.pending with
          delays := Table.make fun k => if k ∈ l ∧ differs k then some (target k) else p.pending.delays.get k } } := by
  induction l generalizing p with
  | nil => simp
  | cons x l ih =>
    have held : (if differs x then postDelay x (target x) p else p).ramp.state = .held := by
      split <;> simp [postDelay, turnRamp, h]
    rw [List.foldl_cons, ih _ held]
    by_cases hx : differs x
    · have ramp : turnRamp p.ramp = p.ramp := by simp [turnRamp, h]
      have delays : ∀ k, (if k ∈ l ∧ differs k then some (target k) else (p.pending.delays.put x (some (target x))).get k) =
          if k ∈ x :: l ∧ differs k then some (target k) else p.pending.delays.get k := by
        intro k
        rw [Table.get_put]
        by_cases hk : k = x
        · subst hk; simp [hx]
        · simp [hk]
      simp only [if_pos hx, postDelay, ramp, delays]
    · have delays : ∀ k, (k ∈ x :: l ∧ differs k) ↔ (k ∈ l ∧ differs k) := by
        intro k
        refine ⟨fun ⟨hk, hd⟩ => ⟨?_, hd⟩, fun ⟨hk, hd⟩ => ⟨List.mem_cons_of_mem _ hk, hd⟩⟩
        rcases List.mem_cons.mp hk with rfl | hk
        · exact absurd hd hx
        · exact hk
      simp only [if_neg hx, delays]

/-- The delay items of a settling on a Held channel: its ramp stays Held, each differing send's place is filled (R102). -/
theorem postChannelDelays_held (s : State) (c : Chan) (h : (pathAt s c).ramp.state = .held) : postChannelDelays s c =
    { pathAt s c with pending := { (pathAt s c).pending with
        delays := Table.make fun k => if delayTarget s c k = effectiveDelay (pathAt s c) k then (pathAt s c).pending.delays.get k
          else some (delayTarget s c k) } } := by
  have posted := foldl_postDelay_held (fun k => ¬ delayTarget s c k = effectiveDelay (pathAt s c) k) (delayTarget s c)
    (List.finRange 8) (pathAt s c) h
  simpa only [postChannelDelays, ite_not, List.mem_finRange, true_and] using posted

/-- A Held ramp at K = 0 stays so at a step (R116, R122). -/
theorem stepPath_held {p : ChannelPath} (h : p.ramp = rampHeld) : stepPath p = p := by
  obtain ⟨_, _, _, _, _, _⟩ := p
  cases h
  rfl

theorem stepSlot_held {p : SlotPath} (h : p.ramp = rampHeld) : stepSlot p = p := by
  obtain ⟨_, _, _, _⟩ := p
  cases h
  rfl

/-- The output delay item of a settling on a Held slot (R103). -/
theorem postSlot_held (s : State) {p : SlotPath} (h : p.ramp = rampHeld) : postSlot s p = { p with
    pending := match p.bus with
      | none => p.pending
      | some b => if slotTarget s b = effectiveSlotDelay p then p.pending else some (slotTarget s b) } := by
  obtain ⟨bus, delay, ramp, pending⟩ := p
  cases h
  cases bus with
  | none => rfl
  | some b =>
    simp only [postSlot]
    split <;> rfl

/-! ### Reports (R177, R178) -/

/-- A report leaves the flag of every other condition. -/
theorem raiseIf_bit_ne (b : Bool) {c : Condition} (s : State) (n : Fin 8) (h : n.val ≠ conditionNumber c) :
    (raiseIf b c s).stc.conditions.getLsbD n.val = s.stc.conditions.getLsbD n.val := by
  refine raiseIf_cases (P := fun t => t.stc.conditions.getLsbD n.val = s.stc.conditions.getLsbD n.val) b c s rfl ?_
  rw [raise_eq]
  simpa [h] using withCondition_bit s.stc.conditions c n

/-- The Notice a report queues where class 1 has room, told by the flag before and after it. -/
def noticeOf (c : Condition) (s t : State) : List Notice :=
  if s.stc.conditions.getLsbD (conditionNumber c) = false ∧ s.stc.boot.noticeMask.getLsbD (conditionNumber c) = false ∧
      t.stc.conditions.getLsbD (conditionNumber c) = true then
    [{ condition := c, position := s.rfr.position }] else []

/-- With room in class 1 a report's Notice joins its end (R178). -/
theorem raiseIf_notices (b : Bool) (c : Condition) {s : State}
    (room : s.mse.notices.length + inProgressCount s.mse .notice < 8) :
    (raiseIf b c s).mse.notices = s.mse.notices ++ noticeOf c s (raiseIf b c s) := by
  cases b with
  | false =>
    have quiet : noticeOf c s s = [] := by
      refine if_neg ?_
      rintro ⟨hclear, -, hset⟩
      simp [hclear] at hset
    show s.mse.notices = s.mse.notices ++ noticeOf c s s
    rw [quiet, List.append_nil]
  | true =>
    have hlt : conditionNumber c < 8 := by cases c <;> decide
    have set : (raise c s).stc.conditions.getLsbD (conditionNumber c) = true := by
      rw [raise_eq]
      simpa using withCondition_bit s.stc.conditions c ⟨conditionNumber c, hlt⟩
    show (raise c s).mse.notices = s.mse.notices ++ noticeOf c s (raise c s)
    rw [noticeOf, set, raise_eq]
    show noticesAfter c s = _
    rw [noticesAfter_eq]
    simp only [room, and_true]
    split <;> simp

/-- Flags kept through two operations are kept through both. -/
theorem flags_trans {x y z : Byte} (h : x &&& y = x) (k : y &&& z = y) : x &&& z = x := by
  rw [← h, BitVec.and_assoc, k]

/-- The close of a frame is a write of the datapath and a report of Clip (R127, R128). -/
theorem closeFrame_eq (s : State) : ∃ b m, closeFrame s = raiseIf b .clip (s.setMxd m) := by
  unfold closeFrame
  split
  · exact ⟨false, s.mxd, rfl⟩
  · exact ⟨_, _, rfl⟩

theorem closeFrame_keeps_flags (s : State) : s.stc.conditions &&& (closeFrame s).stc.conditions = s.stc.conditions := by
  obtain ⟨b, m, h⟩ := closeFrame_eq s
  rw [h]
  exact raiseIf_keeps_flags b .clip (s.setMxd m)

theorem closeFrame_notices {s : State} (room : s.mse.notices.length + inProgressCount s.mse .notice < 8) :
    (closeFrame s).mse.notices = s.mse.notices ++ noticeOf .clip s (closeFrame s) := by
  obtain ⟨b, m, h⟩ := closeFrame_eq s
  rw [h]
  exact raiseIf_notices (s := s.setMxd m) b .clip room

/-- The close of a frame leaves every flag but Clip. -/
theorem closeFrame_bit_ne (s : State) (n : Fin 8) (h : n.val ≠ 0) :
    (closeFrame s).stc.conditions.getLsbD n.val = s.stc.conditions.getLsbD n.val := by
  obtain ⟨b, m, hc⟩ := closeFrame_eq s
  rw [hc]
  exact raiseIf_bit_ne b (s.setMxd m) n h

theorem settle_notices {s : State} (room : s.mse.notices.length + inProgressCount s.mse .notice < 8) :
    (settle s).mse.notices = s.mse.notices ++ noticeOf .overdepth s (settle s) :=
  raiseIf_notices (s := postDelays (s.setAlu (settled s).1)) (settled s).2 .overdepth room

/-- A settling leaves every flag but Overdepth. -/
theorem settle_bit_ne (s : State) (n : Fin 8) (h : n.val ≠ 2) :
    (settle s).stc.conditions.getLsbD n.val = s.stc.conditions.getLsbD n.val :=
  raiseIf_bit_ne (settled s).2 (postDelays (s.setAlu (settled s).1)) n h

/-- With no totals open there is no frame to close (R127). -/
theorem closeFrame_of_none {s : State} (h : s.mxd.totals = none) : closeFrame s = s := by
  simp [closeFrame, h]

end Sys2Proof.Machine
end

section
/-! The strobe that ends Isolated (R32, R53, R69, R74, R112, R122, R124, R127, R134, R141, R154, R178). -/

namespace Sys2Proof.Machine

/-! ### The state the settling begins from (R32, R112) -/

/-- The end of Isolated before its settling: the Lane Table, the messages and the changes cleared, the link scope state formed
anew, every ramp Held. -/
def isolationCleared (s : State) : State :=
  holdRamps (evalLinkScopes (clearScheduler (clearWaitingMarks (emptyClasses
    (((s.setStc { s.stc with station := .listening, listeningCount := 0 }).setLif
      { s.lif with lanes := Table.fill 16 LaneRecord.cleared, ownMode := .watched }).setMse
      { s.mse with reassembly := Table.fill 16 Reassembly.idle })))))

theorem leaveIsolated_eq (s : State) : leaveIsolated s = settle (isolationCleared s) := rfl

/-- The blocks the settling begins from, but for the gating and the datapath. -/
theorem isolationCleared_blocks (s : State) :
    (isolationCleared s).stc = { s.stc with station := .listening, listeningCount := 0 } ∧
    (isolationCleared s).rfr = s.rfr ∧ (isolationCleared s).mse = Mse.cleared ∧ (isolationCleared s).chs = Chs.cleared ∧
    (isolationCleared s).sst = s.sst ∧ (isolationCleared s).gsu.groups = s.gsu.groups ∧
    (isolationCleared s).gsu.ownScopes = s.gsu.ownScopes ∧ (isolationCleared s).alu = s.alu ∧
    (isolationCleared s).mtu = (clearWaitingMarks s).mtu := ⟨rfl, rfl, rfl, rfl, rfl, rfl, rfl, rfl, rfl⟩

/-- With no lane Present the link scope state is the own scope bits (R83). -/
theorem isolationCleared_linkScopes (s : State) : (isolationCleared s).gsu.linkScopes = s.gsu.ownScopes := by
  refine Table.ext_get fun sc => Bool.eq_iff_iff.mpr ?_
  refine (linkScopesOf_iff _ sc).trans ?_
  have absent : ∀ n, ((Table.fill 16 LaneRecord.cleared).get n).presence ≠ .present := by
    intro n
    rw [Table.get_fill]
    decide
  simp only [laneAt, clearScheduler_keeps, clearWaitingMarks_keeps, emptyClasses_keeps, State.setMse_lif, State.setLif_lif,
    State.setMse_gsu, State.setLif_gsu, State.setStc_gsu, absent, false_and, and_false, exists_false, or_false]

/-- Of the datapath the end of Isolated writes the ramps before its settling (R122). -/
theorem isolationCleared_mxd (s : State) :
    (∀ c, pathAt (isolationCleared s) c = { pathAt s c with ramp := rampHeld }) ∧
    (∀ o, (isolationCleared s).mxd.slots.get o = { s.mxd.slots.get o with ramp := rampHeld }) ∧
    (isolationCleared s).mxd.totals = s.mxd.totals ∧ (isolationCleared s).mxd.busHistory = s.mxd.busHistory :=
  ⟨fun c => Table.get_make _ c, fun o => Table.get_make _ o, rfl, rfl⟩

/-! ### The state the frame is formed from -/

/-- The state after the end of Isolated, with the strobe's frame counted. -/
def isolationEnded (p : Position) (s : State) : State :=
  let t := settle (isolationCleared (takeStrobe p s))
  t.setStc { t.stc with listeningCount := 1 }

section
variable (p : Position) {s : State} (hs : s.stc.station = .isolated)
include hs

theorem stationAtStrobe_isolated : stationAtStrobe (takeStrobe p s) = isolationEnded p s := by
  have station : (takeStrobe p s).stc.station = .isolated := by simpa using hs
  simp only [stationAtStrobe, station, leaveIsolated_eq, isolationEnded]

/-- The end of Isolated leaves no change to apply (R32). -/
theorem changedAtStrobe_isolated : changedAtStrobe p s = closeFrame (isolationEnded p s) := by
  obtain ⟨-, -, -, hchs, -⟩ := isolationCleared_blocks (takeStrobe p s)
  rw [changedAtStrobe, stationAtStrobe_isolated p hs]
  exact changesAtStrobe_of_cleared _ (by simp [isolationEnded, hchs])

theorem strobeTaken_isolated (inputs : Table 48 Sample) :
    strobeTaken p inputs s = openUndriven (formFrame false inputs (closeFrame (isolationEnded p s))) := by
  have formed : formedAtStrobe p inputs s = formFrame false inputs (closeFrame (isolationEnded p s)) := by
    rw [← changedAtStrobe_isolated p hs]
    simp [formedAtStrobe, changedAtStrobe, entersContributing, hs]
  obtain ⟨hstc, -⟩ := isolationCleared_blocks (takeStrobe p s)
  have station : (formedAtStrobe p inputs s).stc.station = .listening := by
    simp [formed, isolationEnded, hstc]
  rw [strobeTaken_eq p inputs s (by simp [hs]), openByStation, station, formed]

end

/-! ### Flags and Notices (R177, R178) -/

/-- The flags and the mask the settling begins from: a Locate of the strobe apart, those that stood. -/
theorem isolationCleared_reports (p : Position) (s : State) :
    s.stc.conditions &&& (isolationCleared (takeStrobe p s)).stc.conditions = s.stc.conditions ∧
    (∀ n : Fin 8, n.val ≠ 3 → (isolationCleared (takeStrobe p s)).stc.conditions.getLsbD n.val =
      s.stc.conditions.getLsbD n.val) ∧
    (isolationCleared (takeStrobe p s)).stc.boot = s.stc.boot ∧
    (isolationCleared (takeStrobe p s)).rfr.position = p := by
  obtain ⟨hstc, hrfr, -⟩ := isolationCleared_blocks (takeStrobe p s)
  rw [hstc, hrfr]
  exact ⟨raiseIf_keeps_flags _ _ (s.setRfr (strobeRfr s p)), fun n hn => raiseIf_bit_ne _ (s.setRfr (strobeRfr s p)) n hn,
    by simp, by simp [takeStrobe, strobeRfr]⟩

/-- At the end of Isolated no flag is cleared, and the Notices are the settling's Overdepth, then the close's Clip. -/
theorem isolationEnded_reports (p : Position) (s : State) :
    let t := closeFrame (isolationEnded p s)
    s.stc.conditions &&& t.stc.conditions = s.stc.conditions ∧
    t.mse.notices =
      (if s.stc.conditions.getLsbD 2 = false ∧ s.stc.boot.noticeMask.getLsbD 2 = false ∧ t.stc.conditions.getLsbD 2 = true then
        [{ condition := .overdepth, position := p }] else []) ++
      (if s.stc.conditions.getLsbD 0 = false ∧ s.stc.boot.noticeMask.getLsbD 0 = false ∧ t.stc.conditions.getLsbD 0 = true then
        [{ condition := .clip, position := p }] else []) := by
  dsimp only
  obtain ⟨hflags, hbits, hboot, hpos⟩ := isolationCleared_reports p s
  obtain ⟨-, -, hmse, -⟩ := isolationCleared_blocks (takeStrobe p s)
  generalize hx : isolationCleared (takeStrobe p s) = x at hflags hbits hboot hpos hmse
  have settled : (settle x).mse.notices = noticeOf .overdepth x (settle x) := by
    have queued := settle_notices (s := x) (by rw [hmse]; decide)
    rwa [hmse] at queued
  have ended : isolationEnded p s = (settle x).setStc { (settle x).stc with listeningCount := 1 } := by
    rw [← hx]
    rfl
  have room : (isolationEnded p s).mse.notices.length + inProgressCount (isolationEnded p s).mse .notice < 8 := by
    have short : (noticeOf .overdepth x (settle x)).length ≤ 1 := by
      unfold noticeOf
      split <;> simp
    have progress : inProgressCount (settle x).mse .notice = 0 := by simp [inProgressCount, hmse, Mse.cleared]
    rw [ended, State.setStc_mse, settled, progress]
    omega
  refine ⟨?flags, ?notices⟩
  case flags =>
    have closed := closeFrame_keeps_flags (isolationEnded p s)
    rw [ended] at closed ⊢
    exact flags_trans (flags_trans hflags (settle_keeps_flags x)) closed
  case notices =>
    have bit2 : (closeFrame (isolationEnded p s)).stc.conditions.getLsbD 2 = (settle x).stc.conditions.getLsbD 2 :=
      (closeFrame_bit_ne (isolationEnded p s) 2 (by decide)).trans (by rw [ended]; rfl)
    have bit0 : (settle x).stc.conditions.getLsbD 0 = s.stc.conditions.getLsbD 0 :=
      (settle_bit_ne x 0 (by decide)).trans (hbits 0 (by decide))
    have mask : (settle x).stc.boot = s.stc.boot := by simpa using hboot
    have position : (settle x).rfr.position = p := by simpa using hpos
    have before : x.stc.conditions.getLsbD 2 = s.stc.conditions.getLsbD 2 := hbits 2 (by decide)
    rw [closeFrame_notices room, bit2]
    congr 1
    · rw [ended, State.setStc_mse, settled, noticeOf, hboot, hpos, conditionNumber, before]
    · generalize closeFrame (isolationEnded p s) = t
      rw [ended, noticeOf]
      simp only [State.setStc_stc, State.setStc_rfr, mask, position, conditionNumber, bit0]

/-! ### Channels and slots (R53, R69, R74, R102, R103, R122) -/

/-- A latched channel's assigned send has for its target the delay its pending set gives it (R101). -/
theorem delayTarget_overdepth {s : State} {c : Chan} (ha : alignAt s c = .overdepth) {k : SendIx}
    (hb : ((channelAt s c).sends.get k).bus ≠ none) : delayTarget s c k = effectiveDelay (pathAt s c) k := by
  obtain ⟨b, hb⟩ := Option.ne_none_iff_exists'.mp hb
  simp only [delayTarget, hb, ha]

/-- The state whose delay targets the settling at the end of Isolated posts. -/
def isolationSettled (p : Position) (s : State) : State :=
  (isolationCleared (takeStrobe p s)).setAlu (settled (isolationCleared (takeStrobe p s))).1

theorem pathAt_isolationSettled (p : Position) (s : State) (c : Chan) :
    pathAt (isolationSettled p s) c = { pathAt s c with ramp := rampHeld } := by
  obtain ⟨hpath, -⟩ := isolationCleared_mxd (takeStrobe p s)
  exact (hpath c).trans (by rw [pathAt_congr (s := s) (by simp)])

section
variable (p : Position) (inputs : Table 48 Sample) {s : State} (hs : s.stc.station = .isolated)
include hs

theorem strobeTaken_isolated_alu : (strobeTaken p inputs s).alu = (isolationSettled p s).alu := by
  rw [strobeTaken_isolated p hs inputs]
  simp [isolationEnded, settle, isolationSettled]

/-- The frame is formed from the path with the settling's delay items. -/
theorem pathAt_strobeTaken_posted (c : Chan) : pathAt (strobeTaken p inputs s) c =
    framePath (strobeTaken p inputs s) inputs c (postChannelDelays (isolationSettled p s) c) := by
  have enters : entersContributing s = false := by simp [entersContributing, hs]
  have changed : pathAt (changedAtStrobe p s) c = postChannelDelays (isolationSettled p s) c := by
    rw [changedAtStrobe_isolated p hs, pathAt, (closeFrame_paths _).1]
    exact pathAt_settle _ c
  have posted := postChannelDelays_held (isolationSettled p s) c (by rw [pathAt_isolationSettled]; rfl)
  rw [pathAt_strobeTaken p inputs (by simp [hs]), enters, changed]
  exact congrArg _ (stepPath_held (by rw [posted, pathAt_isolationSettled]))

/-- The delay targets the settling posted are those of the state the strobe leaves. -/
theorem delayTarget_strobeTaken_isolated (c : Chan) (k : SendIx) :
    delayTarget (strobeTaken p inputs s) c k = delayTarget (isolationSettled p s) c k := by
  have effective := effectiveDelay_framePath (strobeTaken p inputs s) inputs c (postChannelDelays (isolationSettled p s) c) k
  rw [← pathAt_strobeTaken_posted p inputs hs, effectiveDelay_postChannelDelays] at effective
  have channel : channelAt (strobeTaken p inputs s) c = channelAt (isolationSettled p s) c :=
    channelAt_congr (by rw [strobeTaken_isolated p hs inputs]; simp [isolationEnded, isolationSettled]) c
  have alu := strobeTaken_isolated_alu p inputs hs
  cases hbus : ((channelAt (isolationSettled p s) c).sends.get k).bus with
  | none => simp only [delayTarget, channel, hbus]
  | some b =>
    cases ha : alignAt (isolationSettled p s) c with
    | normal d => simp only [delayTarget, channel, hbus, alignAt_congr alu, ha, alu]
    | overdepth =>
      rw [← effective]
      simp only [delayTarget, channel, hbus, alignAt_congr alu, ha]

/-- Each channel's path after the end of Isolated: Held, its set kept with the settling's delay items, a frame formed. -/
theorem pathAt_strobeTaken_isolated (c : Chan) : pathAt (strobeTaken p inputs s) c =
    framePath (strobeTaken p inputs s) inputs c { pathAt s c with
      ramp := rampHeld
      pending := { (pathAt s c).pending with
        delays := Table.make fun k =>
          if delayTarget (strobeTaken p inputs s) c k = effectiveDelay (pathAt s c) k then (pathAt s c).pending.delays.get k
          else some (delayTarget (strobeTaken p inputs s) c k) } } := by
  have posted := postChannelDelays_held (isolationSettled p s) c (by rw [pathAt_isolationSettled]; rfl)
  rw [pathAt_isolationSettled] at posted
  rw [pathAt_strobeTaken_posted p inputs hs, posted]
  simp only [delayTarget_strobeTaken_isolated p inputs hs]
  rfl

/-- A latched channel's assigned send has for its target the delay its pending set gives it, so no item is posted (R101). -/
theorem delayTarget_strobeTaken_overdepth {c : Chan} (ha : alignAt (strobeTaken p inputs s) c = .overdepth) {k : SendIx}
    (hbus : ((channelAt s c).sends.get k).bus ≠ none) :
    delayTarget (strobeTaken p inputs s) c k = effectiveDelay (pathAt s c) k := by
  have settings : (isolationSettled p s).sst = s.sst := by simp [isolationSettled, isolationCleared_blocks]
  have latched : alignAt (isolationSettled p s) c = .overdepth :=
    alignAt_congr (strobeTaken_isolated_alu p inputs hs) c ▸ ha
  rw [← channelAt_congr settings c] at hbus
  rw [delayTarget_strobeTaken_isolated p inputs hs, delayTarget_overdepth latched hbus, pathAt_isolationSettled]
  rfl

/-- Each slot's path after the end of Isolated. -/
theorem slot_strobeTaken_isolated (o : SlotIx) : (strobeTaken p inputs s).mxd.slots.get o = { s.mxd.slots.get o with
    ramp := { state := .held, k := 0 }
    pending := match (s.mxd.slots.get o).bus with
      | none => (s.mxd.slots.get o).pending
      | some b => if slotTarget (strobeTaken p inputs s) b = effectiveSlotDelay (s.mxd.slots.get o) then
          (s.mxd.slots.get o).pending else some (slotTarget (strobeTaken p inputs s) b) } := by
  have enters : entersContributing s = false := by simp [entersContributing, hs]
  obtain ⟨-, hslot, -⟩ := isolationCleared_mxd (takeStrobe p s)
  have cleared : (isolationSettled p s).mxd.slots.get o = { s.mxd.slots.get o with ramp := rampHeld } :=
    (hslot o).trans (by simp)
  have changed : (changedAtStrobe p s).mxd.slots.get o =
      postSlot (isolationSettled p s) ((isolationSettled p s).mxd.slots.get o) := by
    rw [changedAtStrobe_isolated p hs, (closeFrame_paths _).2]
    exact slot_settle _ o
  have target : ∀ b, slotTarget (isolationSettled p s) b = slotTarget (strobeTaken p inputs s) b :=
    slotTarget_congr (strobeTaken_isolated_alu p inputs hs).symm
  have posted := postSlot_held (isolationSettled p s) (p := (isolationSettled p s).mxd.slots.get o) (by rw [cleared])
  rw [slot_strobeTaken p inputs (by simp [hs]), enters, changed]
  refine (stepSlot_held (by rw [posted, cleared])).trans ?_
  rw [posted, cleared]
  simp only [target]
  cases (s.mxd.slots.get o).bus <;> rfl

end

/-- The Message Engine after the end of Isolated: empty but for the Notices of the strobe (R141, R154). -/
theorem strobeTaken_isolated_mse (p : Position) (inputs : Table 48 Sample) {s : State} (hs : s.stc.station = .isolated) :
    (strobeTaken p inputs s).mse = { Mse.cleared with notices := (closeFrame (isolationEnded p s)).mse.notices } := by
  obtain ⟨-, -, hmse, -⟩ := isolationCleared_blocks (takeStrobe p s)
  have settled := settle_mse (isolationCleared (takeStrobe p s))
  rw [hmse] at settled
  have ended : (isolationEnded p s).mse = { Mse.cleared with notices := (isolationEnded p s).mse.notices } := settled
  obtain ⟨b, m, hclose⟩ := closeFrame_eq (isolationEnded p s)
  have taken : (strobeTaken p inputs s).mse = (closeFrame (isolationEnded p s)).mse := by
    rw [strobeTaken_isolated p hs inputs]
    simp
  rw [taken, hclose, raiseIf_mse, State.setMxd_mse, ended]

/-- Where no total was open the end of Isolated leaves the bus histories (R127). -/
theorem strobeTaken_isolated_busHistory (p : Position) (inputs : Table 48 Sample) {s : State}
    (hs : s.stc.station = .isolated) (h : s.mxd.totals = none) :
    (strobeTaken p inputs s).mxd.busHistory = s.mxd.busHistory := by
  obtain ⟨-, -, htotals, hhist⟩ := isolationCleared_mxd (takeStrobe p s)
  obtain ⟨shist, stotals, -⟩ := settle_mxd (isolationCleared (takeStrobe p s))
  have closed : (isolationEnded p s).mxd.totals = none := by
    show (settle (isolationCleared (takeStrobe p s))).mxd.totals = none
    rw [stotals, htotals]
    simpa using h
  have ended : (isolationEnded p s).mxd.busHistory = s.mxd.busHistory := by
    show (settle (isolationCleared (takeStrobe p s))).mxd.busHistory = _
    rw [shist, hhist]
    simp
  obtain ⟨-, -, -, formed⟩ := formFrame_mxd false inputs (closeFrame (isolationEnded p s))
  rw [strobeTaken_isolated p hs inputs]
  show (formFrame false inputs (closeFrame (isolationEnded p s))).mxd.busHistory = _
  rw [formed, closeFrame_of_none closed, ended]

/-- Settles O14: the blocks by what the end of Isolated clears and keeps, the reports, and the path of each channel and slot. -/
theorem strobeEndsIsolated : Obligations.StrobeEndsIsolated := by
  intro p inputs s hpin hs
  have hb : s.stc.station ≠ .booting := by simp [hs]
  refine ⟨strobeTaken p inputs s, exec_strobe p inputs s hpin, ?_⟩
  obtain ⟨-, hcause, hstop, hstation, hcount, -⟩ := strobeTaken_station p inputs s
  rw [hs] at hstation hcount
  obtain ⟨hlanes, hmode, -⟩ := strobeTaken_lanes p inputs hb
  rw [if_pos hs] at hlanes hmode
  obtain ⟨-, -, -, hchs, hsst, hgroups, hown, -, hmtu⟩ := isolationCleared_blocks (takeStrobe p s)
  have hlinks := isolationCleared_linkScopes (takeStrobe p s)
  obtain ⟨hflags, hnotices⟩ := isolationEnded_reports p s
  have hmse := strobeTaken_isolated_mse p inputs hs
  have taken := strobeTaken_isolated p hs inputs
  have hstc : (strobeTaken p inputs s).stc = (closeFrame (isolationEnded p s)).stc := by rw [taken]; simp
  have hchs' : (strobeTaken p inputs s).chs = Chs.cleared := by rw [taken]; simp [isolationEnded, hchs]
  have hsst' : (strobeTaken p inputs s).sst = s.sst := by rw [taken]; simp [isolationEnded, hsst]
  have hgsu : (strobeTaken p inputs s).gsu = (isolationCleared (takeStrobe p s)).gsu := by rw [taken]; simp [isolationEnded]
  have hmtu' : (strobeTaken p inputs s).mtu = (clearWaitingMarks s).mtu := by
    rw [taken]
    simp [isolationEnded, hmtu, clearWaitingMarks]
  have path := pathAt_strobeTaken_isolated p inputs hs
  rw [hchs', hsst', hgsu, hgroups, hown]
  refine ⟨hstation, hcount, hstop, hcause, by simp, by simp, by simp, hstc ▸ hflags,
    fun n => by rw [laneAt, hlanes, Table.get_fill], hmode, fun n => ?reassembly, by rw [hmse]; rfl,
    by rw [hmse, hstc]; exact hnotices, by rw [hmse]; rfl, by rw [hmse]; rfl, by rw [hmse]; rfl, fun n => ?collection, rfl, rfl,
    rfl, by simp, by simp, fun sc => by rw [hlinks]; simp, fun c => ?latch, fun c => ?channel,
    slot_strobeTaken_isolated p inputs hs, strobeTaken_isolated_busHistory p inputs hs, by rw [hmtu']; rfl,
    by rw [hmtu']; rfl, fun e => by rw [hmtu']; exact Table.get_make _ e⟩
  case reassembly =>
    rw [reassemblyAt, hmse]
    exact Table.get_fill _ n
  case collection =>
    rw [collectionAt, hchs']
    exact Table.get_fill _ n
  case latch => exact strobeTaken_latch p inputs s (fun hl => by simp [takesChanges, hs] at hl)
  case channel =>
    have kept : ∀ k, alignAt (strobeTaken p inputs s) c = .overdepth → ((channelAt s c).sends.get k).bus ≠ none →
        (pathAt (strobeTaken p inputs s) c).pending.delays.get k = (pathAt s c).pending.delays.get k := by
      intro k ha hbus
      rw [path]
      exact (Table.get_make _ k).trans (if_pos (delayTarget_strobeTaken_overdepth p inputs hs ha hbus))
    have delays : ∀ k, (pathAt (strobeTaken p inputs s) c).pending.delays.get k =
        if delayTarget (strobeTaken p inputs s) c k = effectiveDelay (pathAt s c) k then (pathAt s c).pending.delays.get k
        else some (delayTarget (strobeTaken p inputs s) c k) := by
      intro k
      rw [path]
      exact Table.get_make _ k
    refine ⟨?_, ?_, ?_, ?_, fun k => ⟨delays k, kept k⟩, ?_⟩
    all_goals rw [path c]
    · rfl
    · rfl
    · rfl
    · rfl
    · exact ⟨fun k => Table.get_make _ k, rfl, Table.get_push_zero _ _, fun i => Table.get_push_succ _ _ i⟩

end Sys2Proof.Machine
end

section
/-! The strobe after Joining complete (R27, R53, R65, R66, R74, R121, R124, R151, R153, R174). -/

namespace Sys2Proof.Machine

/-! ### The slots and the meters of the first frame (R151, R153, R174) -/

/-- Filling a slot leaves the window count: the marks alone move in the Meter Unit (R175). -/
theorem fillSlot_windowCount (s : State) : (fillSlot s).2.mtu.windowCount = s.mtu.windowCount := by
  have next : (beginNext s).2.mtu.windowCount = s.mtu.windowCount := by
    unfold beginNext
    split
    · simp
    · split
      · simp
      · split
        · simp
        · split <;> simp [clearWaitingMark]
  unfold fillSlot
  split
  · rfl
  · exact next
  · exact next

/-- A meter frame short of a window end counts one frame (R174). -/
theorem meterFrame_windowCount {s : State} (h : s.mtu.windowCount + 1 ≠ 2048) :
    (meterFrame s).mtu.windowCount = s.mtu.windowCount + 1 := by
  simp [meterFrame, h]

/-- With no message in progress a waiting Announce takes the slot with its head, and its rest is in progress (R153). -/
theorem fillSlot_announce {s : State} (h : s.mse.inProgress = none) (ha : s.mse.announceWaiting = true) :
    (fillSlot s).1 = headWord 16 3 31 ∧
    (fillSlot s).2.mse.inProgress = some { cls := .announce, rest := (announceWords s).tail } := by
  have begun : fillSlot s = beginMessage .announce (announceWords s) (s.setMse { s.mse with announceWaiting := false }) := by
    simp [fillSlot, h, beginNext, ha]
  rw [begun]
  exact ⟨rfl, rfl⟩

/-- A message in progress gives the slot its next word (R153). -/
theorem fillSlot_rest {s : State} {cls : TxClass} {w : Word} {ws : List Word}
    (h : s.mse.inProgress = some { cls := cls, rest := w :: ws }) : (fillSlot s).1 = w := by
  simp [fillSlot, h]

section
variable (p : Position) (inputs : Table 48 Sample) {s : State} (hs : s.stc.station = .joining)
  (hj : s.stc.joiningComplete = true)
include hs hj

theorem stationAtStrobe_enters : stationAtStrobe (takeStrobe p s) = enterContributing (takeStrobe p s) := by
  have station : (takeStrobe p s).stc.station = .joining := by simpa using hs
  have complete : (takeStrobe p s).stc.joiningComplete = true := by simpa using hj
  simp only [stationAtStrobe, station, complete, if_true]

/-- The meter window counts 1 after the frame that enters Contributing (R174). -/
theorem strobeTaken_enters_windowCount : (strobeTaken p inputs s).mtu.windowCount = 1 := by
  have enters : entersContributing s = true := by simp [entersContributing, hs, hj]
  obtain ⟨-, -, -, -, hwindow⟩ := formedAtStrobe_classes p inputs (s := s) (by simp [hs])
  have station := formedAtStrobe_contributing p inputs (.inr ⟨hs, hj⟩)
  have start : (ownWordsEnter (formedAtStrobe p inputs s)).mtu.windowCount = 0 := by simp [hwindow, enters]
  have opened : (strobeTaken p inputs s).mtu = (fillSlot (fillSlot (slotsFilledFrom p inputs s)).2).2.mtu := by
    rw [strobeTaken_eq p inputs s (by simp [hs]), openByStation, station]
    rfl
  rw [opened, fillSlot_windowCount, fillSlot_windowCount, slotsFilledFrom,
    meterFrame_windowCount (by rw [start]; decide), start]

/-- With no message in progress the first Contributing lane carries the head and the first payload word of an Announce. -/
theorem strobeTaken_enters_announces (hn : s.mse.inProgress = none) :
    ∃ ws, (strobeTaken p inputs s).lif.driven = some ws ∧ ws.get 51 = 0x83F80000 ∧
      field (ws.get 52) 12 4 = s.stc.nodeId.val ∧ field (ws.get 52) 0 8 = 1 ∧ field (ws.get 0) 18 2 = 2 := by
  have enters : entersContributing s = true := by simp [entersContributing, hs, hj]
  obtain ⟨hdriven, -, -, hstc⟩ := strobeTaken_drives_contributing p inputs (.inr ⟨hs, hj⟩)
  obtain ⟨-, hannounce, -⟩ := formedAtStrobe_classes p inputs (s := s) (by simp [hs])
  obtain ⟨-, -, hprogress⟩ := formedAtStrobe_station p inputs s
  have waiting : (slotsFilledFrom p inputs s).mse.announceWaiting = true := by simp [slotsFilledFrom, hannounce, enters]
  have progress : (slotsFilledFrom p inputs s).mse.inProgress = none := by simp [slotsFilledFrom, hprogress, hs, hn]
  obtain ⟨hhead, hrest⟩ := fillSlot_announce progress waiting
  obtain ⟨w, hw, hnode, -, hrevision⟩ := announce_station_fields (slotsFilledFrom p inputs s)
  have second : (fillSlot (fillSlot (slotsFilledFrom p inputs s)).2).1 = w := (fillSlot_rest hrest).trans (Option.some.inj hw)
  have node : (slotsFilledFrom p inputs s).stc.nodeId = s.stc.nodeId := by rw [hstc]; simp
  obtain ⟨-, -, hstate, -⟩ := composeMark_fields s.stc.nodeId (code := 2) (by decide) s.lif.ownFrame
  refine ⟨_, hdriven, ?head, ?node, ?revision, hstate⟩
  case head =>
    rw [(composeLane_slots ..).1, hhead]
    decide
  case node => rw [(composeLane_slots ..).2, second, hnode, node]
  case revision => rw [(composeLane_slots ..).2, second, hrevision]

/-! ### The changes and the pending sets (R121, R124, R166, R168) -/

/-- The settings and the paths the frame is formed from are those of the strobe's changes applied to the state before it. -/
theorem changedAtStrobe_enters :
    let queue := if s.rfr.known = true ∧ (p = s.rfr.position ∨ p.toNat = s.rfr.position.toNat + 1) then s.chs.queue else []
    let changes := (queue.takeWhile fun e => decide (e.target.toNat ≤ p.toNat)).map (fun e => e.change) ++ s.chs.due
    SameDesk (changes.foldl applyChange s) (changedAtStrobe p s) := by
  have takes : takesChanges s = true := by simp [takesChanges, hs]
  have entered := stationAtStrobe_enters p hs hj
  have desk : SameDesk s (closeFrame (stationAtStrobe (takeStrobe p s))) := by
    rw [entered]
    simp [SameDesk, closeFrame_paths, enterContributing, startMetering, queueAnnounce]
  have changed := SameDesk.changesAtStrobe (p := p) desk
    (by rw [entered]; simp [enterContributing, startMetering, queueAnnounce])
    (by rw [entered]; simp [enterContributing, startMetering, queueAnnounce, takeStrobe, strobeRfr])
    (by rw [takes, entered]; simp [takesChanges, enterContributing, startMetering, queueAnnounce])
    (.inl takes)
  have speaks : s.stc.station ≠ .silent := by simp [hs]
  simpa only [changedAtStrobe, if_neg speaks] using changed

end

/-- Settles O15: the desk the strobe's changes leave, each path joined and framed from it, the meters and the first slots. -/
theorem strobeEntersContributing : Obligations.StrobeEntersContributing := by
  intro p inputs s hpin hs hj queue changes u
  have hb : s.stc.station ≠ .booting := by simp [hs]
  have enters : entersContributing s = true := by simp [entersContributing, hs, hj]
  obtain ⟨-, -, -, hstation, -, hcomplete⟩ := strobeTaken_station p inputs s
  obtain ⟨hsst, hgsu, halu⟩ := strobeTaken_settings p inputs hb
  obtain ⟨dsst, dgsu, dalu, -, -, dchannels, dslots⟩ : SameDesk u (changedAtStrobe p s) := changedAtStrobe_enters p hs hj
  have path : ∀ c, pathAt (strobeTaken p inputs s) c = framePath (strobeTaken p inputs s) inputs c (joinPath (pathAt u c)) := by
    intro c
    rw [pathAt_strobeTaken p inputs hb, enters, pathAt, dchannels]
    rfl
  have slot : ∀ o, (strobeTaken p inputs s).mxd.slots.get o = joinSlot (u.mxd.slots.get o) := by
    intro o
    rw [slot_strobeTaken p inputs hb, enters, dslots]
    rfl
  refine ⟨strobeTaken p inputs s, exec_strobe p inputs s hpin, by simp [hstation, hs, hj], by simp [hcomplete, hs],
    hsst.trans dsst, hgsu.trans dgsu, halu.trans dalu, fun c => ?channel, slot,
    strobeTaken_enters_windowCount p inputs hs hj, strobeTaken_enters_announces p inputs hs hj⟩
  case channel =>
    refine ⟨?_, ?_, ?_, ?_, ?_, ?_, fun i hi => ?_⟩
    all_goals rw [path c]
    · rfl
    · rfl
    · rfl
    · intro k
      refine (Table.get_make _ k).trans ?_
      simp [joinPath, applyPending, effectiveDelay]
    · rfl
    · exact Table.get_push_zero _ _
    · obtain ⟨j, rfl⟩ := Fin.exists_succ_eq.mpr hi
      exact (Table.get_push_succ _ _ j).trans (Table.get_fill _ _)

end Sys2Proof.Machine
end

section
/-! Input ports and the samples of a source (R52, R53), and the run of a switch ramp through a strobe (R113 to R123). -/

namespace Sys2Proof.Machine

/-! ### Input ports (R52, R53) -/

theorem sourceSample_input (s : State) (inputs : Table 48 Sample) {n : InputIx} {port : PortIx} (h : n.val / 8 = port.val) :
    sourceSample s inputs (.input n) = if s.mxd.locks.get port then inputs.get n else 0 := by
  have hport : portOf n = port := Fin.ext h
  rw [sourceSample, hport]

/-- Settles O25: the lock events as they write, and the sample of each source by its port's lock. -/
theorem portLockIsFollowed : Obligations.PortLockIsFollowed := by
  intro port s
  refine ⟨rfl, rfl, fun inputs => ⟨fun n hn => ?_, fun b => rfl, rfl⟩⟩
  rw [sourceSample_input s inputs hn]
  exact ⟨fun unlocked => by simp [unlocked], fun locked => by simp [locked]⟩

/-! ### The steps of a ramp (R116, R117) -/

section
variable {p : ChannelPath} {k : Nat}

theorem stepPath_falling (h : p.ramp = { state := .rampOut, k := k + 1 }) :
    stepPath p = { p with ramp := { state := .rampOut, k := k } } := by
  simp [stepPath, applicationDue, stepK, h]

theorem stepPath_applying (h : p.ramp = { state := .rampOut, k := 0 }) :
    stepPath p = { applyPending p with ramp := { state := .rampIn, k := 1 } } := by
  simp [stepPath, applicationDue, rampEntersIn, h]

theorem stepPath_rising (h : p.ramp = { state := .rampIn, k := k }) (hk : k < 32) :
    stepPath p = { p with ramp := { state := .rampIn, k := k + 1 } } := by
  simp [stepPath, applicationDue, stepK, h, hk]

theorem stepPath_risen (h : p.ramp = { state := .rampIn, k := 32 }) :
    stepPath p = { p with ramp := { state := .steady, k := 32 } } := by
  simp [stepPath, applicationDue, stepK, h]

theorem stepPath_steady (h : p.ramp = { state := .steady, k := 32 }) : stepPath p = p := by
  obtain ⟨_, _, _, _, _, _⟩ := p
  cases h
  rfl

end

/-- A ramp in Out at K = k is at K = k − n after n ≤ k steps. -/
theorem iterate_stepPath_falling {p : ChannelPath} {k : Nat} (h : p.ramp = { state := .rampOut, k := k }) {n : Nat} (hn : n ≤ k) :
    stepPath^[n] p = { p with ramp := { state := .rampOut, k := k - n } } := by
  induction n with
  | zero => rw [Nat.sub_zero, ← h]; rfl
  | succ n ih =>
    rw [Function.iterate_succ_apply', ih (by omega)]
    exact stepPath_falling (k := k - (n + 1)) (by simp; omega)

/-- A ramp in In at K = k is at K = k + n after n steps, while that is no more than 32. -/
theorem iterate_stepPath_rising {p : ChannelPath} {k : Nat} (h : p.ramp = { state := .rampIn, k := k }) {n : Nat} (hn : k + n ≤ 32) :
    stepPath^[n] p = { p with ramp := { state := .rampIn, k := k + n } } := by
  induction n with
  | zero => rw [Nat.add_zero, ← h]; rfl
  | succ n ih =>
    rw [Function.iterate_succ_apply', ih (by omega)]
    exact stepPath_rising (k := k + n) rfl (by omega)

section
variable {p : ChannelPath} (h : p.ramp = { state := .rampOut, k := 32 })
include h

/-- From the posting of a Steady ramp, the frames 33 to 64 rise in In with the pending set applied. -/
theorem iterate_stepPath_applied {n : Nat} (hn : 33 ≤ n) (hn' : n ≤ 64) :
    stepPath^[n] p = { applyPending p with ramp := { state := .rampIn, k := n - 32 } } := by
  have bottom : stepPath^[33] p = { applyPending p with ramp := { state := .rampIn, k := 1 } } := by
    rw [Function.iterate_succ_apply', iterate_stepPath_falling h (n := 32) le_rfl]
    exact stepPath_applying rfl
  obtain ⟨m, rfl⟩ : ∃ m, n = m + 33 := ⟨n - 33, by omega⟩
  rw [Function.iterate_add_apply, bottom, iterate_stepPath_rising rfl (by omega)]
  simp only [ChannelPath.mk.injEq, Ramp.mk.injEq, true_and, and_true]
  omega

/-- From the sixty-fifth frame on the ramp is Steady. -/
theorem iterate_stepPath_steady {n : Nat} (hn : 65 ≤ n) :
    stepPath^[n] p = { applyPending p with ramp := { state := .steady, k := 32 } } := by
  induction n, hn using Nat.le_induction with
  | base =>
    rw [Function.iterate_succ_apply', iterate_stepPath_applied h (n := 64) (by omega) le_rfl]
    exact stepPath_risen rfl
  | succ n _ ih =>
    rw [Function.iterate_succ_apply', ih]
    exact stepPath_steady rfl

end

/-! ### The desk of a strobe that enters no station state -/

/-- The station stands on the link and does not enter Contributing at this strobe. -/
def StaysAtStrobe (s : State) : Prop :=
  s.stc.station = .listening ∨ s.stc.station = .joining ∧ s.stc.joiningComplete = false ∨ s.stc.station = .contributing ∨
    s.stc.station = .silent

section
variable {s : State} (h : StaysAtStrobe s)
include h

theorem StaysAtStrobe.not_booting : s.stc.station ≠ .booting := by
  rcases h with h | ⟨h, -⟩ | h | h <;> simp [h]

theorem StaysAtStrobe.not_entering : entersContributing s = false := by
  rcases h with h | ⟨h, hj⟩ | h | h <;> simp [entersContributing, *]

theorem StaysAtStrobe.takes : takesChanges s = true ∨ s.stc.station = .silent := by
  rcases h with h | ⟨h, -⟩ | h | h <;> simp [takesChanges, h]

/-- Such a strobe moves the Listening count alone of the Station Controller. -/
theorem StaysAtStrobe.stationAtStrobe (p : Position) : ∃ n, stationAtStrobe (takeStrobe p s) =
    (takeStrobe p s).setStc { (takeStrobe p s).stc with listeningCount := n } := by
  have station : (takeStrobe p s).stc.station = s.stc.station := by simp
  have complete : (takeStrobe p s).stc.joiningComplete = s.stc.joiningComplete := by simp
  unfold Machine.stationAtStrobe
  rw [station, complete]
  rcases h with h | ⟨h, hj⟩ | h | h
  · exact ⟨_, by rw [h]⟩
  · exact ⟨(takeStrobe p s).stc.listeningCount, by rw [h, hj]; rfl⟩
  · exact ⟨(takeStrobe p s).stc.listeningCount, by rw [h]; rfl⟩
  · exact ⟨(takeStrobe p s).stc.listeningCount, by rw [h]; rfl⟩

/-- The settings and the paths the frame is formed from are those of the strobe's changes applied to the state before it. -/
theorem StaysAtStrobe.changedAtStrobe (p : Position) :
    let queue := if s.rfr.known = true ∧ (p = s.rfr.position ∨ p.toNat = s.rfr.position.toNat + 1) then s.chs.queue else []
    let changes := if s.stc.station = .silent then []
      else (queue.takeWhile fun e => decide (e.target.toNat ≤ p.toNat)).map (fun e => e.change) ++ s.chs.due
    SameDesk (changes.foldl applyChange s) (changedAtStrobe p s) := by
  obtain ⟨n, moved⟩ := h.stationAtStrobe p
  refine SameDesk.changesAtStrobe (p := p) ?desk ?chs ?position ?takes h.takes
  all_goals rw [moved]
  case desk => simp [SameDesk, closeFrame_paths]
  case chs => simp
  case position => simp [takeStrobe, strobeRfr]
  case takes => simp [takesChanges]

end

/-- Settles O47: the run of a ramp phase by phase, and each path and slot of a strobe framed from the desk its changes leave. -/
theorem switchRampRunsSixtyFourFrames : Obligations.SwitchRampRunsSixtyFourFrames := by
  refine ⟨fun p h => ⟨fun n _ hn => iterate_stepPath_falling h hn, fun n hn hn' => iterate_stepPath_applied h hn hn',
    fun n hn => iterate_stepPath_steady h hn⟩, fun p h => stepPath_held h, ?strobe⟩
  intro p inputs s hpin hs queue changes u
  replace hs : StaysAtStrobe s := hs
  have hb := hs.not_booting
  obtain ⟨hsst, hgsu, halu⟩ := strobeTaken_settings p inputs hb
  obtain ⟨dsst, dgsu, dalu, -, -, dchannels, dslots⟩ : SameDesk u (changedAtStrobe p s) := hs.changedAtStrobe p
  have path : ∀ c, pathAt (strobeTaken p inputs s) c = framePath (strobeTaken p inputs s) inputs c (stepPath (pathAt u c)) := by
    intro c
    rw [pathAt_strobeTaken p inputs hb, hs.not_entering, pathAt, dchannels]
    rfl
  refine ⟨strobeTaken p inputs s, exec_strobe p inputs s hpin, hsst.trans dsst, hgsu.trans dgsu, halu.trans dalu,
    fun c => ?channel, fun o => ?slot⟩
  case channel =>
    refine ⟨?_, ?_, ?_, fun k => ?_, ?_, ?_, fun i => ?_⟩
    all_goals rw [path c]
    · rfl
    · rfl
    · rfl
    · exact Table.get_make _ k
    · rfl
    · exact Table.get_push_zero _ _
    · exact Table.get_push_succ _ _ i
  case slot =>
    rw [slot_strobeTaken p inputs hb, hs.not_entering, dslots]
    rfl

end Sys2Proof.Machine
end

section
/-! The settings of a channel: which setting a parameter id names, what a write makes of the record, what a read answers of it
(R38, R40 to R47). -/

namespace Sys2Proof.Machine

/-! ### Parameter ids (R41) -/

/-- The id of each parameter of R41's table; the first unassigned id for the rest. -/
def idOf (q : Param) : BitVec 16 :=
  match q with
  | .source => 0
  | .trim => 1
  | .fader => 2
  | .mute => 3
  | .solo => 4
  | .soloSafe => 5
  | .scope => 6
  | .groups => 7
  | .sendBus k => BitVec.ofNat 16 (8 + k.val)
  | .sendLevel k => BitVec.ofNat 16 (16 + k.val)
  | .sendSwitches k => BitVec.ofNat 16 (24 + k.val)
  | .returnState => 32
  | .channelDepth => 33
  | .sendDelay k => BitVec.ofNat 16 (34 + k.val)
  | .sendCoef k => BitVec.ofNat 16 (42 + k.val)
  | .unassigned => 50

theorem paramOf_idOf (q : Param) : paramOf (idOf q) = q := by
  cases q
  case sendBus k | sendLevel k | sendSwitches k | sendDelay k | sendCoef k => revert k; decide
  all_goals rfl

/-- An id names the parameter whose place in the table it has. -/
theorem paramOf_eq {id : BitVec 16} {q : Param} (h : id.toNat = (idOf q).toNat) : paramOf id = q := by
  rw [BitVec.eq_of_toNat_eq h, paramOf_idOf]

theorem idOf_paramOf {id : BitVec 16} (h : id.toNat < 50) : idOf (paramOf id) = id := by
  have table : ∀ n : Fin 50, idOf (paramOf (BitVec.ofNat 16 n.val)) = BitVec.ofNat 16 n.val := by decide
  simpa using table ⟨id.toNat, h⟩

theorem paramOf_unassigned {id : BitVec 16} (h : 50 ≤ id.toNat) : paramOf id = .unassigned := by
  unfold paramOf
  dsimp only
  iterate 15 rw [if_neg (by omega)]

/-- Two ids name one parameter only where they agree, or where neither is assigned. -/
theorem paramOf_ne {id other : BitVec 16} (hne : other ≠ id) (h : other.toNat < 50) : paramOf other ≠ paramOf id := by
  intro same
  by_cases hid : id.toNat < 50
  · exact hne (by rw [← idOf_paramOf h, ← idOf_paramOf hid, same])
  · have assigned := idOf_paramOf h
    rw [same, paramOf_unassigned (by omega)] at assigned
    rw [← assigned] at h
    exact absurd h (by decide)

/-- The ids of the sends' parameters (R41). -/
theorem idOf_send (k : SendIx) : (idOf (.sendBus k)).toNat = 8 + k.val ∧ (idOf (.sendLevel k)).toNat = 16 + k.val ∧
    (idOf (.sendSwitches k)).toNat = 24 + k.val ∧ (idOf (.sendDelay k)).toNat = 34 + k.val ∧
    (idOf (.sendCoef k)).toNat = 42 + k.val := by
  revert k; decide

section
variable {id : BitVec 16} {k : SendIx}

theorem paramOf_sendBus (h : id.toNat = 8 + k.val) : paramOf id = .sendBus k := by
  obtain ⟨e, -⟩ := idOf_send k
  exact paramOf_eq (h.trans e.symm)

theorem paramOf_sendLevel (h : id.toNat = 16 + k.val) : paramOf id = .sendLevel k := by
  obtain ⟨-, e, -⟩ := idOf_send k
  exact paramOf_eq (h.trans e.symm)

theorem paramOf_sendSwitches (h : id.toNat = 24 + k.val) : paramOf id = .sendSwitches k := by
  obtain ⟨-, -, e, -⟩ := idOf_send k
  exact paramOf_eq (h.trans e.symm)

theorem paramOf_sendDelay (h : id.toNat = 34 + k.val) : paramOf id = .sendDelay k := by
  obtain ⟨-, -, -, e, -⟩ := idOf_send k
  exact paramOf_eq (h.trans e.symm)

theorem paramOf_sendCoef (h : id.toNat = 42 + k.val) : paramOf id = .sendCoef k := by
  obtain ⟨-, -, -, -, e⟩ := idOf_send k
  exact paramOf_eq (h.trans e.symm)

end

/-- An id in a run of eight names a send of its run. -/
theorem exists_send {n base : Nat} (hl : base ≤ n) (hu : n < base + 8) : ∃ k : SendIx, n = base + k.val :=
  ⟨⟨n - base, by omega⟩, by show n = base + (n - base); omega⟩

/-! ### What a write makes of the record (R40 to R46) -/

/-- The parameter is one of the settings, which a write changes (R38, R41). -/
def isSetting (q : Param) : Bool :=
  match q with
  | .source | .trim | .fader | .mute | .solo | .soloSafe | .scope | .groups => true
  | .sendBus _ | .sendLevel _ | .sendSwitches _ => true
  | .returnState | .channelDepth | .sendDelay _ | .sendCoef _ | .unassigned => false

/-- The record a write of one parameter leaves; the read-only ids leave it as it is (R41). -/
def writtenRecord (q : Param) (w : Word) (r : ChannelRecord) : ChannelRecord :=
  match q with
  | .source => { r with source := sourceOf w }
  | .trim => { r with trim := stepsOf (-96) 96 w }
  | .fader => { r with fader := stepsOf (-480) 48 w }
  | .mute => { r with mute := switchOf w }
  | .solo => { r with solo := switchOf w }
  | .soloSafe => { r with soloSafe := switchOf w }
  | .scope => { r with scope := scopeOf w }
  | .groups => { r with groups := groupsOf w }
  | .sendBus k => { r with sends := r.sends.put k { r.sends.get k with bus := busOf w.toNat } }
  | .sendLevel k => { r with sends := r.sends.put k { r.sends.get k with level := stepsOf (-480) 48 w } }
  | .sendSwitches k => { r with sends := r.sends.put k { r.sends.get k with on := w.getLsbD 0, invert := w.getLsbD 1 } }
  | .returnState | .channelDepth | .sendDelay _ | .sendCoef _ | .unassigned => r

theorem channelAt_setChannel (s : State) (c n : Chan) (r : ChannelRecord) :
    channelAt (setChannel s c r) n = if n = c then r else channelAt s n := by
  simp [channelAt, setChannel, Table.get_put]

/-- A record stored in place of itself changes nothing. -/
theorem setChannel_self (s : State) (c : Chan) : setChannel s c (channelAt s c) = s := by
  simp only [setChannel, channelAt, Table.put_get]
  rfl

/-- A write stores the written record under its channel, and no other record. -/
theorem applyWrite_sst (c : Chan) (id : BitVec 16) (w : Word) (s : State) :
    (applyWrite c id w s).sst = (setChannel s c (writtenRecord (paramOf id) w (channelAt s c))).sst := by
  have ignored : s.sst = (setChannel s c (channelAt s c)).sst := by rw [setChannel_self]
  unfold applyWrite
  cases paramOf id
  case returnState | channelDepth | sendDelay | sendCoef | unassigned => exact ignored
  case source => simp [writeSource, writtenRecord]
  case trim | fader | mute | sendLevel | sendSwitches => rfl
  case solo => simp [writeSolo, writtenRecord]
  case soloSafe => simp [writeSoloSafe, writtenRecord]
  case scope => simp [writeScope, writtenRecord]
  case groups => simp [writeGroups, writtenRecord]
  case sendBus => simp [writeSendBus, setSend, writtenRecord]

theorem channelAt_applyWrite (c : Chan) (id : BitVec 16) (w : Word) (s : State) (n : Chan) :
    channelAt (applyWrite c id w s) n = if n = c then writtenRecord (paramOf id) w (channelAt s c) else channelAt s n := by
  rw [channelAt_congr (applyWrite_sst c id w s), channelAt_setChannel]

theorem channelAt_applyWrite_self (c : Chan) (id : BitVec 16) (w : Word) (s : State) :
    channelAt (applyWrite c id w s) c = writtenRecord (paramOf id) w (channelAt s c) := by
  rw [channelAt_applyWrite, if_pos rfl]

/-- A write to a read-only or unassigned id is ignored (R41). -/
theorem applyWrite_of_not_setting {id : BitVec 16} (h : isSetting (paramOf id) = false) (c : Chan) (w : Word) (s : State) :
    applyWrite c id w s = s := by
  unfold applyWrite
  generalize paramOf id = q at h ⊢
  cases q
  case returnState | channelDepth | sendDelay | sendCoef | unassigned => rfl
  all_goals cases h

/-- Ids of 32 and more name no setting (R41). -/
theorem isSetting_eq {id : BitVec 16} : isSetting (paramOf id) = decide (id.toNat < 32) := by
  by_cases h : id.toNat < 50
  · have table : ∀ n : Fin 50, isSetting (paramOf (BitVec.ofNat 16 n.val)) = decide (n.val < 32) := by decide
    simpa using table ⟨id.toNat, h⟩
  · have high : ¬ id.toNat < 32 := by omega
    simp [paramOf_unassigned (id := id) (by omega), isSetting, high]

/-! ### What a read answers (R47) -/

/-- The word that answers a read of a setting. -/
def settingWord (r : ChannelRecord) (q : Param) : Word :=
  match q with
  | .source => sourceWord r.source
  | .trim => stepsWord r.trim
  | .fader => stepsWord r.fader
  | .mute => switchWord r.mute
  | .solo => switchWord r.solo
  | .soloSafe => switchWord r.soloSafe
  | .scope => BitVec.ofNat 32 r.scope.val
  | .groups => groupsWord r.groups
  | .sendBus k => busWord (r.sends.get k).bus
  | .sendLevel k => stepsWord (r.sends.get k).level
  | .sendSwitches k => switchesWord (r.sends.get k)
  | .returnState | .channelDepth | .sendDelay _ | .sendCoef _ | .unassigned => 0

theorem readParam_setting {id : BitVec 16} (h : isSetting (paramOf id) = true) (s : State) (c : Chan) :
    readParam s c id = settingWord (channelAt s c) (paramOf id) := by
  unfold readParam
  generalize paramOf id = q at h ⊢
  cases q
  case returnState | channelDepth | sendDelay | sendCoef | unassigned => cases h
  all_goals rfl

/-- The read after a write answers of the record written. -/
theorem readParam_applyWrite {id : BitVec 16} {q : Param} (hq : paramOf id = q) (h : isSetting q = true) (c : Chan) (w : Word)
    (s : State) : readParam (applyWrite c id w s) c id = settingWord (writtenRecord q w (channelAt s c)) q := by
  subst hq
  rw [readParam_setting h, channelAt_applyWrite_self]

/-- New settings of a send leave every setting that they agree with the old ones on. -/
theorem settingWord_putSend (r : ChannelRecord) (k : SendIx) (d : SendSettings) (q : Param)
    (hbus : q = .sendBus k → d.bus = (r.sends.get k).bus) (hlevel : q = .sendLevel k → d.level = (r.sends.get k).level)
    (hswitches : q = .sendSwitches k → d.on = (r.sends.get k).on ∧ d.invert = (r.sends.get k).invert) :
    settingWord { r with sends := r.sends.put k d } q = settingWord r q := by
  have other : ∀ {j : SendIx}, j ≠ k → (r.sends.put k d).get j = r.sends.get j := fun h => Table.get_put_ne _ h _
  cases q
  case sendBus j =>
    by_cases hj : j = k
    · subst hj; simp [settingWord, hbus rfl]
    · simp [settingWord, other hj]
  case sendLevel j =>
    by_cases hj : j = k
    · subst hj; simp [settingWord, hlevel rfl]
    · simp [settingWord, other hj]
  case sendSwitches j =>
    by_cases hj : j = k
    · subst hj; simp [settingWord, switchesWord, hswitches rfl]
    · simp [settingWord, other hj]
  all_goals rfl

/-- A write of one parameter leaves the answer of every other. -/
theorem settingWord_writtenRecord_ne {p q : Param} (h : q ≠ p) (w : Word) (r : ChannelRecord) :
    settingWord (writtenRecord p w r) q = settingWord r q := by
  cases p
  case sendBus k => exact settingWord_putSend r k _ q (fun e => absurd e h) (fun _ => rfl) (fun _ => ⟨rfl, rfl⟩)
  case sendLevel k => exact settingWord_putSend r k _ q (fun _ => rfl) (fun e => absurd e h) (fun _ => ⟨rfl, rfl⟩)
  case sendSwitches k => exact settingWord_putSend r k _ q (fun _ => rfl) (fun _ => rfl) (fun e => absurd e h)
  case returnState | channelDepth | sendDelay | sendCoef | unassigned => rfl
  all_goals cases q <;> first | exact absurd rfl h | rfl


/-! ### The values that read back (R42 to R46) -/

theorem clampInt_eq {lo hi : Int} (h : lo ≤ hi) (x : Int) : clampInt lo hi x = max lo (min hi x) := by
  unfold clampInt
  split_ifs <;> omega

theorem stepsWord_toInt {x : Int} (hl : -2147483648 ≤ x) (hu : x < 2147483648) : (stepsWord x).toInt = x := by
  rw [stepsWord, BitVec.toInt_ofInt, Int.bmod_eq_of_le] <;> norm_num <;> omega

/-- A stored number reads back as the value word clamped (R42, R47). -/
theorem stepsWord_stepsOf {lo hi : Int} (h : lo ≤ hi) (hl : -2147483648 ≤ lo) (hu : hi < 2147483648) (w : Word) :
    (stepsWord (stepsOf lo hi w)).toInt = max lo (min hi w.toInt) := by
  rw [stepsOf, clampInt_eq h]
  exact stepsWord_toInt (by omega) (by omega)

theorem switchWord_switchOf (w : Word) : switchWord (switchOf w) = if w = 0 then 0 else 1 := by
  by_cases h : w = 0 <;> simp [switchWord, switchOf, h]

theorem ofNat_toNat_of_lt {n : Nat} (h : n < 4294967296) : (BitVec.ofNat 32 n).toNat = n := by
  simpa using h

/-- Scope reads back clamped to 0..7 (R42). -/
theorem scopeOf_toInt (w : Word) : (BitVec.ofNat 32 (scopeOf w).val).toInt = max 0 (min 7 w.toInt) := by
  have clamped : ((scopeOf w).val : Int) = max 0 (min 7 w.toInt) := by
    have small : (clampInt 0 7 w.toInt).toNat < 8 := by rw [clampInt_eq (by decide)]; omega
    rw [scopeOf, dif_pos small, ← clampInt_eq (by decide)]
    refine Int.toNat_of_nonneg ?_
    rw [clampInt_eq (by decide)]
    omega
  rw [← clamped, ← BitVec.ofInt_natCast]
  have := (scopeOf w).isLt
  exact stepsWord_toInt (by omega) (by omega)

/-- Source reads back as the code that names it, 255 where the word names none (R43). -/
theorem sourceWord_sourceOf (w : Word) :
    sourceWord (sourceOf w) = if w.toNat < 48 ∨ 64 ≤ w.toNat ∧ w.toNat < 112 then w else 255 := by
  unfold sourceOf
  dsimp only
  by_cases hinput : w.toNat < 48
  · simp [sourceWord, hinput]
  · by_cases hreturn : 64 ≤ w.toNat ∧ w.toNat < 112
    · have code : 64 + (w.toNat - 64) = w.toNat := by omega
      simp [sourceWord, hinput, hreturn, code]
    · simp [sourceWord, hinput, hreturn]

/-- Send Bus reads back as the bus, 255 where the word names none (R44). -/
theorem busWord_busOf (w : Word) : busWord (busOf w.toNat) = if w.toNat < 48 then w else 255 := by
  unfold busOf
  split_ifs <;> simp [busWord]

theorem placeBit_getLsbD (b : Bool) {lo n : Nat} (hn : n < 32) : (placeBit b lo).getLsbD n = (b && decide (n = lo)) := by
  cases b
  · simp [placeBit, place]
  · simp only [placeBit, place, if_true, BitVec.getLsbD_shiftLeft, BitVec.getLsbD_one, Bool.true_and]
    by_cases h : n = lo
    · simp [h]; omega
    · simp only [h, decide_false, hn, decide_true, Bool.true_and, Bool.and_eq_false_imp, Bool.not_eq_true', decide_eq_false_iff_not]
      omega

/-- Send Switches reads back its two low bits (R45). -/
theorem switchesWord_written (w : Word) (d : SendSettings) :
    switchesWord { d with on := w.getLsbD 0, invert := w.getLsbD 1 } = w &&& 3 := by
  have low : ∀ n : Fin 32, (3#32).getLsbD n.val = (decide (n.val = 0) || decide (n.val = 1)) := by decide
  apply BitVec.eq_of_getLsbD_eq
  intro n hn
  have bits := low ⟨n, hn⟩
  simp only [switchesWord, BitVec.getLsbD_or, BitVec.getLsbD_and, placeBit_getLsbD _ hn] at bits ⊢
  rw [show (3 : Word) = 3#32 from rfl, bits]
  by_cases h0 : n = 0
  · simp [h0]
  · by_cases h1 : n = 1 <;> simp [h0, h1]

/-! ### The statement -/

/-- Settles O33: each setting read of the record its write leaves, and the read-only ids of the state they stand in. -/
theorem writtenParameterReadsBack : Obligations.WrittenParameterReadsBack := by
  intro c id w s r
  have setting : ∀ q, isSetting q = true → id.toNat = (idOf q).toNat → r = settingWord (writtenRecord q w (channelAt s c)) q :=
    fun q hq hid => readParam_applyWrite (paramOf_eq hid) hq c w s
  have steps : ∀ {lo hi : Int}, lo ≤ hi → -2147483648 ≤ lo → hi < 2147483648 → r = stepsWord (stepsOf lo hi w) →
      r.toInt = max lo (min hi w.toInt) := fun h hl hu hr => by rw [hr, stepsWord_stepsOf h hl hu]
  have ignored : 32 ≤ id.toNat → applyWrite c id w s = s := fun h =>
    applyWrite_of_not_setting (by rw [isSetting_eq]; simpa using h) c w s
  have readOnly : ∀ q, 32 ≤ (idOf q).toNat → id.toNat = (idOf q).toNat → paramOf id = q ∧ r = readParam s c id :=
    fun q hq hid => ⟨paramOf_eq hid, by simp only [r]; rw [ignored (by omega)]⟩
  refine ⟨fun h => ?source, fun h => ?trim, fun h => ?level, fun h => ?switch, fun h => ?scope, fun h => ?groups,
    fun ⟨hl, hu⟩ => ?sendBus, fun ⟨hl, hu⟩ => ?sendSwitches, ignored, fun h => ?unassigned, fun h => ?returnState,
    fun h => ?channelDepth, fun k => ⟨fun h => ?sendDelay, fun h small => ?sendCoef⟩⟩
  case source => rw [setting .source rfl h]; exact sourceWord_sourceOf w
  case trim => exact steps (by decide) (by decide) (by decide) (setting .trim rfl h)
  case level =>
    rcases h with h | ⟨hl, hu⟩
    · exact steps (by decide) (by decide) (by decide) (setting .fader rfl h)
    · obtain ⟨k, hk⟩ := exists_send hl hu
      obtain ⟨-, e, -⟩ := idOf_send k
      refine steps (by decide) (by decide) (by decide) ((setting (.sendLevel k) rfl (hk.trans e.symm)).trans ?_)
      simp [settingWord, writtenRecord]
  case switch =>
    rcases h with h | h | h
    · rw [setting .mute rfl h]; exact switchWord_switchOf w
    · rw [setting .solo rfl h]; exact switchWord_switchOf w
    · rw [setting .soloSafe rfl h]; exact switchWord_switchOf w
  case scope => rw [setting .scope rfl h]; exact scopeOf_toInt w
  case groups => exact setting .groups rfl h
  case sendBus =>
    obtain ⟨k, hk⟩ := exists_send hl hu
    obtain ⟨e, -⟩ := idOf_send k
    rw [setting (.sendBus k) rfl (hk.trans e.symm), ← busWord_busOf]
    simp [settingWord, writtenRecord]
  case sendSwitches =>
    obtain ⟨k, hk⟩ := exists_send hl hu
    obtain ⟨-, -, e, -⟩ := idOf_send k
    rw [setting (.sendSwitches k) rfl (hk.trans e.symm), ← switchesWord_written w ((channelAt s c).sends.get k)]
    simp [settingWord, writtenRecord]
  case unassigned => simp [r, readParam, paramOf_unassigned h]
  case returnState =>
    obtain ⟨hq, hr⟩ := readOnly .returnState (by decide) h
    rw [hr, readParam, hq]
    cases alignAt s c <;> rfl
  case channelDepth =>
    obtain ⟨hq, hr⟩ := readOnly .channelDepth (by decide) h
    rw [hr, readParam, hq]
    refine ⟨fun latched => by rw [latched]; rfl, fun d normal => ?_⟩
    have := d.isLt
    rw [normal]
    exact ofNat_toNat_of_lt (by omega)
  case sendDelay =>
    obtain ⟨-, -, -, e, -⟩ := idOf_send k
    obtain ⟨hq, hr⟩ := readOnly (.sendDelay k) (by omega) (h.trans e.symm)
    rw [hr, readParam, hq]
    have := ((pathAt s c).sends.get k).delay.isLt
    exact ofNat_toNat_of_lt (by omega)
  case sendCoef =>
    obtain ⟨-, -, -, -, e⟩ := idOf_send k
    obtain ⟨hq, hr⟩ := readOnly (.sendCoef k) (by omega) (h.trans e.symm)
    rw [hr, readParam, hq]
    exact ofNat_toNat_of_lt (by omega)

end Sys2Proof.Machine
end

section
/-! The Groups word: the list it forms and the word it reads back as (R46). -/

namespace Sys2Proof.Machine

/-! ### Keeping first occurrences -/

theorem keepFirst_concat (gs : List GroupIx) (g : GroupIx) :
    keepFirst (gs ++ [g]) = if g ∈ keepFirst gs then keepFirst gs else keepFirst gs ++ [g] := by
  simp [keepFirst]

theorem mem_keepFirst {gs : List GroupIx} {g : GroupIx} : g ∈ keepFirst gs ↔ g ∈ gs := by
  induction gs using List.reverseRecOn with
  | nil => rfl
  | append_singleton gs x ih =>
    rw [keepFirst_concat]
    split
    · next seen =>
      refine ⟨fun h => List.mem_append_left _ (ih.mp h), fun h => ?_⟩
      rcases List.mem_append.mp h with h | h
      · exact ih.mpr h
      · rw [List.mem_singleton.mp h]; exact seen
    · rw [List.mem_append, List.mem_append, ih]

theorem nodup_keepFirst (gs : List GroupIx) : (keepFirst gs).Nodup := by
  induction gs using List.reverseRecOn with
  | nil => exact List.nodup_nil
  | append_singleton gs x ih =>
    rw [keepFirst_concat]
    split
    · exact ih
    · next new => exact List.nodup_append.mpr ⟨ih, List.nodup_singleton x, by simpa using fun a ha (e : a = x) => new (e ▸ ha)⟩

theorem keepFirst_sublist (gs : List GroupIx) : (keepFirst gs).Sublist gs := by
  induction gs using List.reverseRecOn with
  | nil => exact List.Sublist.slnil
  | append_singleton gs x ih =>
    rw [keepFirst_concat]
    split
    · exact ih.trans (List.sublist_append_left gs [x])
    · exact ih.append (List.Sublist.refl [x])

/-- A list of distinct groups is kept whole. -/
theorem keepFirst_of_nodup {gs : List GroupIx} (h : gs.Nodup) : keepFirst gs = gs := by
  induction gs using List.reverseRecOn with
  | nil => rfl
  | append_singleton gs x ih =>
    obtain ⟨hgs, -, apart⟩ := List.nodup_append.mp h
    have new : x ∉ gs := fun hx => apart x hx x (List.mem_singleton_self x) rfl
    rw [keepFirst_concat, ih hgs, if_neg new]

/-- What is kept of the front stands at the front. -/
theorem keepFirst_prefix (xs ys : List GroupIx) : keepFirst xs <+: keepFirst (xs ++ ys) := by
  induction ys using List.reverseRecOn with
  | nil => rw [List.append_nil]
  | append_singleton ys y ih =>
    rw [← List.append_assoc, keepFirst_concat]
    split
    · exact ih
    · exact ih.trans (List.prefix_append _ _)

/-- A group of the front stands before one that the front does not hold. -/
theorem idxOf_keepFirst_lt {xs : List GroupIx} {g h : GroupIx} (hg : g ∈ xs) (hh : h ∉ xs) (ys : List GroupIx) :
    (keepFirst (xs ++ ys)).idxOf g < (keepFirst (xs ++ ys)).idxOf h := by
  obtain ⟨rest, hrest⟩ := keepFirst_prefix xs ys
  rw [← hrest, List.idxOf_append_of_mem (mem_keepFirst.mpr hg),
    List.idxOf_append_of_notMem (fun k => hh (mem_keepFirst.mp k))]
  exact Nat.lt_add_right _ (List.idxOf_lt_length_of_mem (mem_keepFirst.mpr hg))

/-! ### The list of a Groups word -/

/-- The four bytes of a word, bits 31–24 first. -/
def bytesOf (w : Word) : List Nat :=
  [field w 24 8, field w 16 8, field w 8 8, field w 0 8]

theorem groupsOf_eq (w : Word) : groupsOf w = keepFirst ((bytesOf w).filterMap groupOf) := by
  simp only [groupsOf, bytesOf, List.filterMap_cons, List.filterMap_nil]

theorem groupOf_eq_some {n : Nat} {g : GroupIx} : groupOf n = some g ↔ g.val = n := by
  unfold groupOf
  split
  · simp [Fin.ext_iff, eq_comm]
  · next h => exact ⟨nofun, fun e => absurd g.isLt (by omega)⟩

theorem mem_namedGroups {ns : List Nat} {g : GroupIx} : g ∈ ns.filterMap groupOf ↔ g.val ∈ ns := by
  simp [List.mem_filterMap, groupOf_eq_some]

/-- The groups that bytes name are, as numbers, a sublist of the bytes. -/
theorem namedGroups_sublist (ns : List Nat) : ((ns.filterMap groupOf).map Fin.val).Sublist ns := by
  induction ns with
  | nil => exact List.Sublist.slnil
  | cons n ns ih =>
    cases hn : groupOf n with
    | none => rw [List.filterMap_cons_none hn]; exact ih.cons n
    | some g =>
      rw [List.filterMap_cons_some hn, List.map_cons, groupOf_eq_some.mp hn]
      exact ih.cons_cons n

theorem bytesOf_get (w : Word) (i : Fin 4) : (bytesOf w)[i.val]? = some (field w (24 - 8 * i.val) 8) := by
  fin_cases i <;> rfl

/-- The groups of earlier bytes stand before a group that a later byte names first. -/
theorem idxOf_groupsOf_lt (w : Word) {i j : Fin 4} (hij : i < j) {g h : GroupIx} (hg : g.val = field w (24 - 8 * i.val) 8)
    (new : ∀ k : Fin 4, k < j → h.val ≠ field w (24 - 8 * k.val) 8) : (groupsOf w).idxOf g < (groupsOf w).idxOf h := by
  have front : ∀ n, n ∈ (bytesOf w).take j.val ↔ ∃ k : Fin 4, k < j ∧ n = field w (24 - 8 * k.val) 8 := by
    intro n
    rw [List.mem_take_iff_getElem]
    have len : (bytesOf w).length = 4 := rfl
    constructor
    · rintro ⟨k, hk, rfl⟩
      refine ⟨⟨k, by omega⟩, by show k < j.val; omega, ?_⟩
      have := bytesOf_get w ⟨k, by omega⟩
      rw [List.getElem?_eq_getElem (by omega)] at this
      exact Option.some.inj this
    · rintro ⟨k, hk, rfl⟩
      have hkj : k.val < j.val := hk
      refine ⟨k.val, by omega, ?_⟩
      have := bytesOf_get w k
      rw [List.getElem?_eq_getElem (by omega)] at this
      exact Option.some.inj this
  rw [groupsOf_eq, ← List.take_append_drop j.val (bytesOf w), List.filterMap_append]
  refine idxOf_keepFirst_lt ?_ ?_ _
  · rw [mem_namedGroups, front]
    exact ⟨i, hij, hg⟩
  · rw [mem_namedGroups, front]
    rintro ⟨k, hk, e⟩
    exact new k hk e

/-! ### The word of a list -/

/-- The byte of a Groups word that answers a place of the list (R46). -/
def groupByte (gs : List GroupIx) (i : Nat) : Nat :=
  match gs[i]? with
  | some g => g.val
  | none => 255

theorem groupByte_lt (gs : List GroupIx) (i : Nat) : groupByte gs i < 2 ^ 8 := by
  unfold groupByte
  split
  · next g _ => have := g.isLt; omega
  · decide

theorem groupsWord_eq (gs : List GroupIx) : groupsWord gs =
    place (groupByte gs 0) 24 ||| place (groupByte gs 1) 16 ||| place (groupByte gs 2) 8 ||| place (groupByte gs 3) 0 := rfl

theorem bytesOf_groupsWord (gs : List GroupIx) :
    bytesOf (groupsWord gs) = [groupByte gs 0, groupByte gs 1, groupByte gs 2, groupByte gs 3] := by
  have self : ∀ i {lo : Nat}, lo + 8 ≤ 32 → field (place (groupByte gs i) lo) lo 8 = groupByte gs i := fun i _ h =>
    field_place_self (groupByte_lt gs i) h
  have below : ∀ i {lo lo' : Nat}, lo + 8 ≤ 32 → lo' + 8 ≤ lo → field (place (groupByte gs i) lo) lo' 8 = 0 := fun i _ _ h h' =>
    field_place_below (groupByte_lt gs i) h h'
  have above : ∀ i {lo lo' : Nat}, lo + 8 ≤ 32 → lo + 8 ≤ lo' → field (place (groupByte gs i) lo) lo' 8 = 0 := fun i _ _ h h' =>
    field_place_above (groupByte_lt gs i) h h'
  simp [bytesOf, groupsWord_eq, field_or, self, below, above]

/-- A list that fits the word is the groups its bytes name. -/
theorem namedGroups_groupsWord {gs : List GroupIx} (h : gs.length ≤ 4) : (bytesOf (groupsWord gs)).filterMap groupOf = gs := by
  have named : ∀ g : GroupIx, groupOf g.val = some g := fun g => groupOf_eq_some.mpr rfl
  have empty : groupOf 255 = none := rfl
  rw [bytesOf_groupsWord]
  match gs, h with
  | [], _ => rfl
  | [a], _ => simp [groupByte, named, empty]
  | [a, b], _ => simp [groupByte, named, empty]
  | [a, b, c], _ => simp [groupByte, named, empty]
  | [a, b, c, d], _ => simp [groupByte, named]

/-- Settles O35: the list a word forms by what is kept of its bytes' groups, and the word a list reads back as byte by byte. -/
theorem groupsWordKeepsFirstOccurrences : Obligations.GroupsWordKeepsFirstOccurrences := by
  refine ⟨fun w => ?list, fun gs hlen => ⟨fun i => ?bytes, fun distinct => ?readBack⟩, fun c w s => ⟨?written, ?read⟩⟩
  case list =>
    have sub : ((groupsOf w).map Fin.val).Sublist (bytesOf w) := by
      rw [groupsOf_eq]
      exact ((keepFirst_sublist _).map Fin.val).trans (namedGroups_sublist _)
    refine ⟨by simpa [bytesOf] using sub.length_le, ?_, sub, fun g => ?_, fun i j hij g h hg _ new => idxOf_groupsOf_lt w hij hg new⟩
    · rw [groupsOf_eq]; exact nodup_keepFirst _
    · rw [groupsOf_eq, mem_keepFirst, mem_namedGroups]
      simp [bytesOf]
  case bytes =>
    have byte : field (groupsWord gs) (24 - 8 * i.val) 8 = groupByte gs i.val := by
      have listed := bytesOf_get (groupsWord gs) i
      rw [bytesOf_groupsWord] at listed
      fin_cases i <;> exact (Option.some.inj listed).symm
    exact byte
  case readBack => rw [groupsOf_eq, namedGroups_groupsWord hlen, keepFirst_of_nodup distinct]
  case written =>
    have hq : paramOf 7 = .groups := rfl
    rw [channelAt_applyWrite_self, hq]
    rfl
  case read => rfl

end Sys2Proof.Machine
end

section
/-! What a write changes beside the record of its channel, and the item that a write to Source or Send Bus posts
(R40, R41, R48, R50, R115, R119). -/

namespace Sys2Proof.Machine

/-! ### What a write leaves (R40, R48) -/

/-- Of the Station Controller a write moves the flags alone. -/
theorem applyWrite_stc (c : Chan) (id : BitVec 16) (w : Word) (s : State) :
    (applyWrite c id w s).stc = { s.stc with conditions := (applyWrite c id w s).stc.conditions } := by
  obtain ⟨hstation, hnode, hbase, hboot, hcause, hstop, hcount, hjoining, -⟩ := applyWrite_keeps c id w s
  dsimp only
  rw [← hstation, ← hnode, ← hbase, ← hboot, ← hcause, ← hstop, ← hcount, ← hjoining]

/-- Of the Message Engine a write moves class 1 alone. -/
theorem applyWrite_mse (c : Chan) (id : BitVec 16) (w : Word) (s : State) :
    (applyWrite c id w s).mse = { s.mse with notices := (applyWrite c id w s).mse.notices } := by
  obtain ⟨-, -, -, -, -, -, -, -, -, -, hre, hann, hstrip, hmeter, hprog, -⟩ := applyWrite_keeps c id w s
  dsimp only
  rw [← hre, ← hann, ← hstrip, ← hmeter, ← hprog]

/-- A write to a parameter other than Source and Send Bus leaves the datapath and the alignment state. -/
theorem applyWrite_quiet {id : BitVec 16} (hsource : paramOf id ≠ .source) (hbus : ∀ k, paramOf id ≠ .sendBus k) (c : Chan)
    (w : Word) (s : State) : (applyWrite c id w s).mxd = s.mxd ∧ (applyWrite c id w s).alu = s.alu := by
  unfold applyWrite
  cases hq : paramOf id
  case source => exact absurd hq hsource
  case sendBus k => exact absurd hq (hbus k)
  all_goals simp

/-! ### Posting an item (R115, R119) -/

theorem turnRamp_k (r : Ramp) : (turnRamp r).k = r.k := by
  unfold turnRamp
  split <;> rfl

/-- A ramp in Steady or In turns Out (R119). -/
theorem turnRamp_turns {r : Ramp} (h : r.state = .steady ∨ r.state = .rampIn) : (turnRamp r).state = .rampOut := by
  rcases h with h | h <;> simp [turnRamp, h]

/-- A ramp in Out or Held stays (R119). -/
theorem turnRamp_stays {r : Ramp} (h : r.state = .rampOut ∨ r.state = .held) : turnRamp r = r := by
  rcases h with h | h <;> simp [turnRamp, h]

theorem turnRamp_turnRamp (r : Ramp) : turnRamp (turnRamp r) = turnRamp r := by
  obtain ⟨state, k⟩ := r
  cases state <;> rfl

/-- The delay items posted to a ramp that has turned move the delay places alone. -/
theorem postChannelDelays_turned {s : State} {c : Chan} (h : turnRamp (pathAt s c).ramp = (pathAt s c).ramp) :
    ∃ delays, postChannelDelays s c = { pathAt s c with pending := { (pathAt s c).pending with delays := delays } } := by
  unfold postChannelDelays
  induction List.finRange 8 using List.reverseRecOn with
  | nil => exact ⟨_, rfl⟩
  | append_singleton l k ih =>
    obtain ⟨delays, ih⟩ := ih
    rw [List.foldl_append, List.foldl_cons, List.foldl_nil, ih]
    split
    · exact ⟨delays, rfl⟩
    · exact ⟨_, by rw [postDelay, h]⟩

/-- A settling after an item is posted moves the delay places alone of the path posted to. -/
theorem pathAt_settle_posted {t : State} {c : Chan} {p : ChannelPath} {r : Ramp} (hp : pathAt t c = p) (hr : p.ramp = turnRamp r) :
    ∃ delays, pathAt (settle t) c = { p with pending := { p.pending with delays := delays } } := by
  rw [pathAt_settle, ← hp]
  exact postChannelDelays_turned (s := t.setAlu (settled t).1) (by
    show turnRamp (pathAt t c).ramp = (pathAt t c).ramp
    rw [hp, hr, turnRamp_turnRamp])

theorem pathAt_setPath_self (s : State) (c : Chan) (p : ChannelPath) : pathAt (setPath s c p) c = p := by
  simp [pathAt, setPath]

theorem pathAt_raiseIf (b : Bool) (cond : Condition) (s : State) (c : Chan) : pathAt (raiseIf b cond s) c = pathAt s c :=
  pathAt_congr (by simp) c

/-- A write to Source posts the source stored; of the path nothing else moves but delay places and the ramp's turn. -/
theorem pathAt_writeSource (c : Chan) (w : Word) (s : State) : ∃ delays, pathAt (writeSource c w s) c =
    { pathAt s c with
      pending := { (pathAt s c).pending with source := some (sourceOf w), delays := delays }
      ramp := turnRamp (pathAt s c).ramp } := by
  refine pathAt_settle_posted (p := postSource (sourceOf w) (pathAt s c)) ?_ rfl
  rw [pathAt_raiseIf, pathAt_setPath_self]
  simp [pathAt]

/-- A write to Send k Bus posts the bus stored. -/
theorem pathAt_writeSendBus (c : Chan) (k : SendIx) (w : Word) (s : State) : ∃ delays, pathAt (writeSendBus c k w s) c =
    { pathAt s c with
      pending := { (pathAt s c).pending with buses := (pathAt s c).pending.buses.put k (some (busOf w.toNat)), delays := delays }
      ramp := turnRamp (pathAt s c).ramp } := by
  refine pathAt_settle_posted (p := postBus k (busOf w.toNat) (pathAt s c)) ?_ rfl
  rw [pathAt_setPath_self]
  simp [pathAt]

/-! ### The statement -/

/-- A posted item leaves what is in force: the ramp's factor stands and its state turns as R119 says. -/
theorem posted_path {p q : ChannelPath} {pending : PendingSet} (h : q = { p with pending := pending, ramp := turnRamp p.ramp }) :
    q = { p with pending := q.pending, ramp := q.ramp } ∧ q.ramp.k = p.ramp.k ∧
    (p.ramp.state = .steady ∨ p.ramp.state = .rampIn → q.ramp.state = .rampOut) ∧
    (p.ramp.state = .rampOut ∨ p.ramp.state = .held → q.ramp.state = p.ramp.state) := by
  subst h
  exact ⟨rfl, turnRamp_k _, turnRamp_turns, fun h => congrArg Ramp.state (turnRamp_stays h)⟩

/-- Settles O34: the record by the parameter written, the frame of the other blocks, and the item posted. -/
theorem writeChangesOneParameter : Obligations.WriteChangesOneParameter := by
  intro c id w s t
  have written : channelAt t c = writtenRecord (paramOf id) w (channelAt s c) := channelAt_applyWrite_self c id w s
  have source : id.toNat = 0 → paramOf id = .source ∧ t = writeSource c w s := fun h => by
    have hq : paramOf id = .source := paramOf_eq h
    exact ⟨hq, by simp only [t, applyWrite, hq]⟩
  have bus : ∀ k : SendIx, id.toNat = 8 + k.val → paramOf id = .sendBus k ∧ t = writeSendBus c k w s := fun k h =>
    ⟨paramOf_sendBus h, by simp only [t, applyWrite, paramOf_sendBus h]⟩
  refine ⟨fun n hn => ?others, fun other hne hlt => ?settings, by simp [t], by simp [t], by simp [t], by simp [t], by simp [t],
    applyWrite_stc c id w s, applyWrite_mse c id w s, fun h => ?source, fun k h => ?bus, fun h => ?posted, fun h0 h8 => ?quiet⟩
  case others => rw [channelAt_applyWrite, if_neg hn]
  case settings =>
    have setting : isSetting (paramOf other) = true := by rw [isSetting_eq]; simpa using hlt
    rw [readParam_setting setting, readParam_setting setting, written]
    exact settingWord_writtenRecord_ne (paramOf_ne hne (by omega)) w _
  case source =>
    obtain ⟨hq, ht⟩ := source h
    obtain ⟨delays, hp⟩ := pathAt_writeSource c w s
    rw [written, hq, ht, hp]
    exact ⟨rfl, rfl⟩
  case bus =>
    obtain ⟨hq, ht⟩ := bus k h
    obtain ⟨delays, hp⟩ := pathAt_writeSendBus c k w s
    rw [written, hq, ht, hp]
    simp [writtenRecord]
  case posted =>
    rcases h with h | ⟨hl, hu⟩
    · obtain ⟨-, ht⟩ := source h
      obtain ⟨delays, hp⟩ := pathAt_writeSource c w s
      rw [ht]
      exact posted_path hp
    · obtain ⟨k, hk⟩ := exists_send hl hu
      obtain ⟨-, ht⟩ := bus k hk
      obtain ⟨delays, hp⟩ := pathAt_writeSendBus c k w s
      rw [ht]
      exact posted_path hp
  case quiet =>
    refine applyWrite_quiet (fun hq => h0 (paramOf_source hq)) (fun k hq => h8 ?_) c w s
    have assigned : id = idOf (.sendBus k) := by
      rw [← hq, idOf_paramOf]
      by_contra high
      rw [paramOf_unassigned (by omega)] at hq
      cases hq
    obtain ⟨e, -⟩ := idOf_send k
    rw [assigned, e]
    omega

end Sys2Proof.Machine
end

section
/-! The Overdepth latch: what keeps it, what a write to Source makes of it, and Rearm (R51, R92, R97, R105 to R107). -/

namespace Sys2Proof.Machine

variable {ch : Chan}

/-! ### What keeps the latch (R106, R111) -/

theorem KeepsLatch.refl (s : State) : KeepsLatch ch s s := id

theorem KeepsLatch.ite {p : Prop} [Decidable p] {s t : State} (h : KeepsLatch ch s t) :
    KeepsLatch ch s (if p then t else s) := by
  split
  · exact h
  · exact .refl s

theorem KeepsLatch.unlessPinned {f : State → State} {s : State} (h : KeepsLatch ch s (f s)) :
    KeepsLatch ch s (unlessPinned f s) := by
  unfold Machine.unlessPinned
  split
  · exact .refl s
  · exact h

theorem applyRamp_alu (r : RampId) (s : State) : (applyRamp r s).alu = s.alu := by
  unfold applyRamp
  repeat' split
  all_goals simp

theorem bootReadEnds_alu (b : Option BootSettings) (s : State) : (bootReadEnds b s).alu = s.alu := by
  cases b
  · rw [bootReadEnds_none]; simp
  · rfl

theorem takeStationReset_latch (dest : BitVec 5) (straps : BitVec 4) (s : State) :
    KeepsLatch ch s (takeStationReset dest straps s) :=
  onStation_cases (P := KeepsLatch ch s) _ _ _ _ (.refl s) (.of_alu (by simp)) fun _ => stationResetTaken_latch straps s ch

/-- Every command but those that write, reset or rearm the channel keeps its latch. -/
theorem exec_latch {c : Instr} {s t : State} (h : exec c s = .next t)
    (power : ∀ straps, c ≠ .powerOn straps) (pin : ∀ straps, c ≠ .pinReset straps) (rearm : ∀ strip, c ≠ .rearm strip)
    (strobe : ∀ p inputs, c = .strobe p inputs → KeepsLatch ch s (strobeTaken p inputs s))
    (arrival : ∀ lane rx straps, c = .laneArrival lane rx straps → KeepsLatch ch s (laneArrives lane rx straps s)) :
    KeepsLatch ch s t := by
  have out : ∀ {u : State}, Host.Outcome.next (φ := Fault) (ρ := Refusal) u = .next t → KeepsLatch ch s u → KeepsLatch ch s t := by
    intro u e; cases e; exact id
  cases c with
  | powerOn straps => exact absurd rfl (power straps)
  | pinReset straps => exact absurd rfl (pin straps)
  | rearm strip => exact absurd rfl (rearm strip)
  | strobe p inputs =>
    refine out h ?_
    split
    · exact .refl s
    · exact strobe p inputs rfl
  | laneArrival lane rx straps => exact out h (.ite (arrival lane rx straps rfl))
  | laneLost lane => exact out h (.ite (laneArrives_latch lane .undriven 0 s nofun))
  | stationReset dest straps => exact out h (.unlessPinned (takeStationReset_latch dest straps s))
  | bootReadComplete | bootReadNoAnswer => exact out h (.ite (.of_alu (bootReadEnds_alu _ s)))
  | pendingSetApplication r => exact out h (.ite (.of_alu (applyRamp_alu r s)))
  | resetPinAsserted | lockGained | lockLost => exact out h (.of_alu (by simp))
  | loss | laneConflict | joiningComplete | endOfListening | windowEnd | setClose => exact out h (.ite (.of_alu (by simp)))
  | stripSet | stripQuery | groupLevel | bind | watch | unwatch | clearConditions | rollCall =>
    exact out h (.unlessPinned (.of_alu (by simp)))

/-! ### Storing an alignment (R92) -/

theorem alignAt_setAlign (s : State) (c n : Chan) (a : Align) :
    alignAt (setAlign s c a) n = if n = c then a else alignAt s n := by
  simp [alignAt, setAlign, Table.get_put]

theorem alignAt_setAlign_self (s : State) (c : Chan) (a : Align) : alignAt (setAlign s c a) c = a := by
  rw [alignAt_setAlign, if_pos rfl]

/-- An alignment stored in place of itself changes nothing. -/
theorem setAlign_self (s : State) (c : Chan) : setAlign s c (alignAt s c) = s := by
  simp only [setAlign, alignAt, Table.put_get]
  rfl

section
variable {aligned : Table 48 Depth} {b : Bus}

theorem evaluate_return {d : Depth} (h : d.val = (aligned.get b).val + 1) : evaluate (.busReturn b) aligned = .normal d := by
  have room : (aligned.get b).val + 1 < 15 := h ▸ d.isLt
  simp only [evaluate, dif_pos room, Align.normal.injEq]
  exact Fin.ext h.symm

theorem evaluate_full (h : (aligned.get b).val = 14) : evaluate (.busReturn b) aligned = .overdepth := by
  simp [evaluate, h]

theorem evaluate_other {src : Source} (h : ∀ b, src ≠ .busReturn b) : evaluate src aligned = .normal 0 := by
  cases src with
  | busReturn b => exact absurd rfl (h b)
  | input n => rfl
  | none => rfl

end

/-! ### What a settling makes of a channel (R97, R98, R105) -/

theorem settle_alu (s : State) : (settle s).alu = (settled s).1 := by
  simp [settle]

/-- A channel Normal at 0 for an input or None stays so through a settling. -/
theorem settled_other {s : State} {c : Chan} (hsrc : ∀ b, (channelAt s c).source ≠ .busReturn b) (h : alignAt s c = .normal 0) :
    (settled s).1.channels.get c = .normal 0 := by
  have loop : ∀ n a l, a.channels.get c = .normal 0 → (settleLoop s n a l).1.channels.get c = .normal 0 := by
    intro n
    induction n with
    | zero => exact fun _ _ h => h
    | succ n ih =>
      intro a l ha
      unfold settleLoop
      dsimp only
      split
      · exact ha
      · refine ih _ _ ?_
        rw [pass_channels, ha]
        exact evaluate_other hsrc
  exact loop _ _ _ h

theorem flag_of_kept {x y : Byte} (h : x &&& y = x) {n : Nat} (hx : x.getLsbD n = true) : y.getLsbD n = true := by
  rw [← h, BitVec.getLsbD_and] at hx
  exact (Bool.and_eq_true_iff.mp hx).2

theorem raise_overdepthFlag (s : State) : (raise .overdepth s).stc.conditions.getLsbD 2 = true := by
  rw [raise_eq]
  simpa [conditionNumber] using withCondition_bit s.stc.conditions .overdepth 2

/-- A settling that latches a channel flags Overdepth (R98, R105). -/
theorem settle_flags_latch {s : State} {c : Chan} (h : alignAt s c ≠ .overdepth) (k : alignAt (settle s) c = .overdepth) :
    (settle s).stc.conditions.getLsbD 2 = true := by
  have marked : (settled s).2 = true := settled_marks_latch s c h (by rwa [← settle_alu])
  rw [settle, marked]
  exact raise_overdepthFlag _

/-- A channel that its evaluation or the settling after it latches is flagged (R51, R105). -/
theorem settle_evaluated_flags {s : State} {c : Chan}
    (h : alignAt (settle (raiseIf (decide (alignAt s c = .overdepth)) .overdepth s)) c = .overdepth) :
    (settle (raiseIf (decide (alignAt s c = .overdepth)) .overdepth s)).stc.conditions.getLsbD 2 = true := by
  by_cases latched : alignAt s c = .overdepth
  · rw [decide_eq_true latched]
    exact flag_of_kept (settle_keeps_flags _) (raise_overdepthFlag s)
  · rw [decide_eq_false latched] at h ⊢
    exact settle_flags_latch latched h

/-! ### A write to Source (R51) -/

/-- The state a write to Source settles: the record stored, the channel at its evaluation. -/
theorem sourceEvaluated_eq (c : Chan) (w : Word) (s : State) : sourceEvaluated c w s =
    setAlign (setChannel s c { channelAt s c with source := sourceOf w }) c (evaluate (sourceOf w) s.alu.aligned) := by
  rw [sourceEvaluated, evaluateChannel, channelAt_setChannel, if_pos rfl]
  rfl

section
variable {c : Chan} {w : Word} {s : State} {src : Source} (h : sourceOf w = src)
include h

theorem writeSource_evaluates {a : Align} (ha : evaluate src s.alu.aligned = a) : (writeSource c w s).alu =
    (settled (setAlign (setChannel s c { channelAt s c with source := src }) c a)).1 := by
  rw [writeSource_alu, sourceEvaluated_eq, h, ha]

/-- A write of an input or None leaves the channel Normal at 0. -/
theorem alignAt_writeSource_other (hsrc : ∀ b, src ≠ .busReturn b) : alignAt (writeSource c w s) c = .normal 0 := by
  rw [alignAt, writeSource_evaluates h (evaluate_other hsrc)]
  refine settled_other ?_ (alignAt_setAlign_self _ c _)
  rw [channelAt_congr (s := setChannel s c { channelAt s c with source := src }) (by simp), channelAt_setChannel, if_pos rfl]
  exact hsrc

/-- A write of a return at depth 14 latches the channel. -/
theorem alignAt_writeSource_full {b : Bus} (hsrc : src = .busReturn b) (full : (s.alu.aligned.get b).val = 14) :
    alignAt (writeSource c w s) c = .overdepth := by
  rw [alignAt, writeSource_evaluates h (hsrc ▸ evaluate_full full)]
  exact settled_keeps_latch _ c (alignAt_setAlign_self _ c _)

end

theorem writeSource_flags (c : Chan) (w : Word) (s : State) (h : alignAt (writeSource c w s) c = .overdepth) :
    (writeSource c w s).stc.conditions.getLsbD 2 = true :=
  settle_evaluated_flags h

/-! ### A settling of a settled state (R97, R98, R102, R103) -/

theorem DelaysOk.congr {s t : State} (i : DelaysOk s) (hsst : t.sst = s.sst) (halu : t.alu = s.alu) (hmxd : t.mxd = s.mxd) :
    DelaysOk t := by
  simpa only [DelaysOk, channelAt_congr hsst, pathAt_congr hmxd, alignAt_congr halu, halu, hmxd] using i

theorem AlignmentOk.raise {s : State} (i : AlignmentOk s) (cond : Condition) : AlignmentOk (raise cond s) :=
  alignmentOk_congr (SameRouting.of_tables (by simp) (by simp) (by simp)) (by simp) i

theorem DelaysOk.raise {s : State} (i : DelaysOk s) (cond : Condition) : DelaysOk (raise cond s) :=
  i.congr (by simp) (by simp) (by simp)

section
variable {s : State} (i : DelaysOk s)
include i

/-- Every send stands at its delay target, in force or pending. -/
theorem DelaysOk.delayTarget (c : Chan) (k : SendIx) : delayTarget s c k = effectiveDelay (pathAt s c) k := by
  obtain ⟨unassigned, assigned, -⟩ := i
  unfold Machine.delayTarget
  cases hb : ((channelAt s c).sends.get k).bus with
  | none => exact (unassigned c k hb).symm
  | some b =>
    cases ha : alignAt s c with
    | overdepth => rfl
    | normal d =>
      have sum := assigned c k b d hb ha
      apply Fin.ext
      show (s.alu.aligned.get b).val - d.val = _
      omega

theorem DelaysOk.slotTarget {o : SlotIx} {b : Bus} (h : (s.mxd.slots.get o).bus = some b) :
    slotTarget s b = effectiveSlotDelay (s.mxd.slots.get o) := by
  obtain ⟨-, -, slots⟩ := i
  have sum := slots o b h
  have target := slotTarget_add s b
  apply Fin.ext
  omega

/-- With every delay at its target a settling posts none. -/
theorem DelaysOk.postDelays_eq : postDelays s = s := by
  have channel : ∀ c, postChannelDelays s c = s.mxd.channels.get c := fun c => by
    simp only [postChannelDelays, i.delayTarget, if_true]
    exact List.foldl_fixed _
  have slot : ∀ o, postSlot s (s.mxd.slots.get o) = s.mxd.slots.get o := fun o => by
    unfold postSlot
    split
    · rfl
    · next b hb => rw [if_pos (i.slotTarget hb)]
  simp only [postDelays, channel, slot, Table.make_get]
  rfl

end

theorem AlignmentOk.settled_eq {s : State} (i : AlignmentOk s) : settled s = (s.alu, false) :=
  settled_eq_of_pass s i.pass_eq

/-- A settling of a settled state changes nothing. -/
theorem settle_of_ok {s : State} (i : AlignmentOk s) (j : DelaysOk s) : settle s = s := by
  rw [settle, i.settled_eq]
  exact j.postDelays_eq

/-! ### Rearm (R107) -/

theorem stripChannel_eq {s : State} {strip : BitVec 16} {c : Chan} (h : strip.toNat = s.stc.stripBase + c.val) :
    stripChannel s strip = some c := by
  have := c.isLt
  rw [stripChannel, dif_pos (by omega), Option.some.injEq, Fin.ext_iff]
  show strip.toNat - s.stc.stripBase = c.val
  omega

theorem exec_rearm {s : State} {strip : BitVec 16} {c : Chan} (hpin : s.resetPin = false) (ht : takesChanges s = true)
    (h : strip.toNat = s.stc.stripBase + c.val) : exec (.rearm strip) s = .next (rearmChannel c s) := by
  show Host.Outcome.next (unlessPinned (takeRearm strip) s) = _
  rw [unlessPinned_released hpin, takeRearm, onStrip, if_pos ht, stripChannel_eq h]

/-- A Rearm of a Normal channel is the settling alone. -/
theorem rearmChannel_normal {s : State} {c : Chan} (h : alignAt s c ≠ .overdepth) : rearmChannel c s = settle s := by
  unfold rearmChannel
  split
  · rfl
  · next latched => exact absurd latched h

section
variable {s : State} {c : Chan} {b : Bus} (latched : alignAt s c = .overdepth) (hsrc : (channelAt s c).source = .busReturn b)
include latched hsrc

theorem rearmChannel_latched : rearmChannel c s =
    settle (raiseIf (decide (evaluate (.busReturn b) s.alu.aligned = .overdepth)) .overdepth
      (setAlign s c (evaluate (.busReturn b) s.alu.aligned))) := by
  have evaluated : evaluateChannel c s = setAlign s c (evaluate (.busReturn b) s.alu.aligned) := by rw [evaluateChannel, hsrc]
  unfold rearmChannel
  rw [latched]
  dsimp only
  rw [evaluated, alignAt_setAlign_self]

/-- With the return at depth 14 the latch stays and the settling follows the report. -/
theorem rearmChannel_full (full : (s.alu.aligned.get b).val = 14) : rearmChannel c s = settle (raise .overdepth s) := by
  have stays : setAlign s c .overdepth = s := by rw [← latched]; exact setAlign_self s c
  rw [rearmChannel_latched latched hsrc, evaluate_full full, stays]
  rfl

/-- With the return at 13 or less the channel is Normal one deeper, and the settling follows. -/
theorem rearmChannel_returns {d : Depth} (h : d.val = (s.alu.aligned.get b).val + 1) :
    rearmChannel c s = settle (setAlign s c (.normal d)) := by
  rw [rearmChannel_latched latched hsrc, evaluate_return h]
  rfl

end

section
variable {s : State} (i : AlignmentOk s) {c : Chan}
include i

/-- Taking one latch back leaves returns alone latched. -/
theorem AlignmentOk.latches_setAlign (d : Depth) : LatchesAreReturns (setAlign s c (.normal d)) := by
  intro n h
  rw [alignAt_setAlign] at h
  split at h
  · cases h
  · rw [channelAt_congr (s := s) (by simp)]; exact i.latches n h

/-- A channel that sends to no bus, put Normal one deeper than its return, leaves the state settled: no need moves. -/
theorem AlignmentOk.setAlign_unsent {b : Bus} {d : Depth} (hsrc : (channelAt s c).source = .busReturn b)
    (unsent : ∀ k, ((channelAt s c).sends.get k).bus = none) (h : d.val = (s.alu.aligned.get b).val + 1) :
    AlignmentOk (setAlign s c (.normal d)) := by
  obtain ⟨depths, own, heard⟩ := i
  have records : ∀ n, channelAt (setAlign s c (.normal d)) n = channelAt s n := channelAt_congr (by simp)
  have sends : ∀ b e, SendsAtDepth (setAlign s c (.normal d)) b e ↔ SendsAtDepth s b e := by
    intro b e
    refine exists_congr fun n => exists_congr fun k => ?_
    rw [records, alignAt_setAlign]
    by_cases hn : n = c
    · subst hn; simp [unsent]
    · rw [if_neg hn]
  refine ⟨fun n => ?_, fun b => ?_, heard⟩
  · unfold ChannelDepthOk
    rw [records, alignAt_setAlign]
    by_cases hn : n = c
    · subst hn
      rw [hsrc, if_pos rfl]
      exact .inr ⟨d, rfl, h⟩
    · rw [if_neg hn]; exact depths n
  · simp only [sends]; exact own b

end

/-! ### The statement -/

/-- Settles O45: the latch through each command, the evaluation a write to Source settles from, and Rearm by the latch and the
depth of the return. -/
theorem overdepthLatchHoldsUntilRearm : Obligations.OverdepthLatchHoldsUntilRearm := by
  refine ⟨?kept, ?written, fun strip c s hpin ht hstrip => ?rearm⟩
  case kept =>
    intro c ch s t latched h power pin rearm strobe arrival
    refine exec_latch h power pin rearm (fun p inputs hc => strobeTaken_latch p inputs s (strobe p inputs hc)) ?_ latched
    intro lane rx straps hc
    obtain ⟨collected, begun⟩ := arrival lane rx straps hc
    exact laneArrives_latch lane rx straps s fun ws hw => ⟨collected, begun ws hw⟩
  case written =>
    intro c id w s t
    refine ⟨fun n hn => ?others, fun hid => ?source⟩
    case others =>
      refine applyWrite_latch c id w s (hn.imp_right fun hid e => hid ?_)
      rw [e]; rfl
    case source =>
      intro stored
      have hq : paramOf id = .source := paramOf_eq hid
      have ht : t = writeSource c w s := by simp only [t, applyWrite, hq]
      have record : channelAt t c = { channelAt s c with source := sourceOf w } := by
        rw [channelAt_applyWrite_self, hq]; rfl
      have named : ∀ {src}, (channelAt t c).source = src → sourceOf w = src ∧ stored = setChannel s c
          { channelAt s c with source := src } := by
        intro src h
        rw [record] at h
        exact ⟨h, by simp only [stored]; rw [record, ← h]⟩
      have other : ∀ {src}, (channelAt t c).source = src → (∀ b, src ≠ .busReturn b) →
          t.alu = (settled (setAlign stored c (.normal 0))).1 ∧ alignAt t c = .normal 0 := by
        intro src h hsrc
        obtain ⟨hw, hstored⟩ := named h
        rw [ht, hstored]
        exact ⟨writeSource_evaluates hw (evaluate_other hsrc), alignAt_writeSource_other hw hsrc⟩
      refine ⟨fun n h => other h nofun, fun h => other h nofun, fun b h => ?_⟩
      obtain ⟨hw, hstored⟩ := named h
      rw [ht, hstored]
      exact ⟨fun d hd => writeSource_evaluates hw (evaluate_return hd), fun full =>
        ⟨writeSource_evaluates hw (evaluate_full full), alignAt_writeSource_full hw rfl full⟩, writeSource_flags c w s⟩
  case rearm =>
    rw [exec_rearm hpin ht hstrip]
    refine ⟨⟨_, rfl, by simp, by simp, by simp, by simp⟩, fun normal => ?normal, fun b latched hsrc => ⟨fun full i j => ?full,
      fun d hd => ?returns⟩⟩
    case normal =>
      rw [rearmChannel_normal normal]
      exact ⟨rfl, fun i j => by rw [settle_of_ok i j]⟩
    case full => rw [rearmChannel_full latched hsrc full, settle_of_ok (i.raise _) (j.raise _)]
    case returns =>
      rw [rearmChannel_returns latched hsrc hd]
      refine ⟨_, rfl, settle_alu _, rfl, settle_flags_latch (by rw [alignAt_setAlign_self]; nofun), fun i => ⟨fun e he => ?_,
        fun unsent => ?_⟩⟩
      · have depth := (alignmentOk_settle _ (i.latches_setAlign (c := c) d)).1 c
        unfold ChannelDepthOk at depth
        rw [channelAt_congr (s := s) (by simp), hsrc, he] at depth
        obtain ⟨e', same, he'⟩ := depth.resolve_left nofun
        cases same
        exact he'
      · rw [alignAt, settle_alu, (i.setAlign_unsent hsrc unsent hd).settled_eq]
        exact alignAt_setAlign_self s c _

end Sys2Proof.Machine
end

section
/-! The book's rounding, and saturation (00_scope.md 3.3). -/

namespace Sys2Proof.Machine

/-! ### The book's rounding -/

section
variable {d : Nat} (hd : 0 < d)
include hd

/-- The rounding is odd: ties go away from zero on both sides. -/
theorem roundDiv_neg (n : Int) : roundDiv (-n) d = - roundDiv n d := by
  have zero : (2 * Int.toNat 0 + d) / (2 * d) = 0 := Nat.div_eq_of_lt (by rw [Int.toNat_zero]; omega)
  unfold roundDiv
  rcases lt_trichotomy n 0 with h | rfl | h
  · rw [if_pos (by omega), if_neg (by omega), neg_neg]
  · rw [neg_zero, if_pos le_rfl, zero]
    rfl
  · rw [if_neg (by omega), if_pos (by omega), neg_neg]

/-- The rounded quotient lies within half a divisor of the numerator, and at a tie it lies outside of it. -/
theorem roundDiv_near (n : Int) : 2 * (n - roundDiv n d * d).natAbs ≤ d ∧
    (2 * (n - roundDiv n d * d).natAbs = d → n.natAbs ≤ (roundDiv n d).natAbs * d) := by
  wlog h : 0 ≤ n generalizing n with opposite
  · have near := opposite (-n) (by omega)
    rw [roundDiv_neg hd, neg_mul, ← neg_sub', Int.natAbs_neg, Int.natAbs_neg, Int.natAbs_neg] at near
    exact near
  · obtain ⟨m, rfl⟩ := Int.eq_ofNat_of_zero_le h
    have quotient : roundDiv m d = ((2 * m + d) / (2 * d) : Nat) := if_pos h
    have division := Nat.div_add_mod (2 * m + d) (2 * d)
    have remainder := Nat.mod_lt (2 * m + d) (Nat.mul_pos two_pos hd)
    rw [quotient, ← Nat.cast_mul, Int.natAbs_natCast, Int.natAbs_natCast]
    rw [mul_right_comm, mul_assoc] at division
    generalize (2 * m + d) / (2 * d) * d = product at division ⊢
    omega

/-- Rounding does not leave whole bounds. -/
theorem roundDiv_mem {lo hi n : Int} (hl : lo * d ≤ n) (hu : n ≤ hi * d) : lo ≤ roundDiv n d ∧ roundDiv n d ≤ hi := by
  have near := (roundDiv_near hd n).1
  constructor
  · by_contra h
    have below : (roundDiv n d + 1) * d ≤ lo * d := Int.mul_le_mul_of_nonneg_right (by omega) (by omega)
    rw [add_mul] at below
    omega
  · by_contra h
    have above : (hi + 1) * d ≤ roundDiv n d * d := Int.mul_le_mul_of_nonneg_right (by omega) (by omega)
    rw [add_mul] at above
    omega

/-- A whole quotient is not moved. -/
theorem roundDiv_mul (x : Int) : roundDiv (x * d) d = x :=
  have between := roundDiv_mem hd (le_refl (x * d)) le_rfl
  le_antisymm between.2 between.1

theorem roundDiv_zero : roundDiv 0 d = 0 := by
  simpa using roundDiv_mul hd 0

end

/-! ### Saturation -/

theorem saturate24_toInt (x : Int) : (saturate24 x).toInt = max (-8388608) (min 8388607 x) := by
  rw [saturate24, clampInt_eq (by decide), BitVec.toInt_ofInt, Int.bmod_eq_of_le] <;> norm_num

theorem saturate32_toInt (x : Int) : (saturate32 x).toInt = max (-2147483648) (min 2147483647 x) := by
  rw [saturate32, clampInt_eq (by decide), BitVec.toInt_ofInt, Int.bmod_eq_of_le] <;> norm_num

theorem exceeds24_iff (x : Int) : exceeds24 x = true ↔ x < -8388608 ∨ 8388607 < x := by
  simp [exceeds24]

theorem exceeds32_iff (x : Int) : exceeds32 x = true ↔ x < -2147483648 ∨ 2147483647 < x := by
  simp [exceeds32]

/-- A sample's bounds (00_scope.md 3.4). -/
theorem sample_mem (x : Sample) : -8388608 ≤ x.toInt ∧ x.toInt ≤ 8388607 := by
  have lower := BitVec.le_toInt x
  have upper := BitVec.toInt_lt (x := x)
  norm_num at lower upper
  omega

end Sys2Proof.Machine
end

section
/-! The conversion from steps to coefficient, and the targets of sends and meter paths (R57 to R61). -/

namespace Sys2Proof.Machine

/-! ### Shifting by an octave (R60) -/

/-- A base value shifted up by the octave, or divided and rounded half up below the point. -/
def octaveShift (o : Int) (b : Nat) : Nat :=
  if 0 ≤ o + 8 then b * 2 ^ (o + 8).toNat else (b + 2 ^ ((-(o + 8)).toNat - 1)) / 2 ^ (-(o + 8)).toNat

theorem octaveShift_up {o : Int} (h : 0 ≤ o + 8) (b : Nat) : octaveShift o b = b * 2 ^ (o + 8).toNat := if_pos h

theorem octaveShift_down {o : Int} {n : Nat} (h : o + 8 = -(n : Int)) (hn : 0 < n) (b : Nat) :
    octaveShift o b = (b + 2 ^ (n - 1)) / 2 ^ n := by
  rw [octaveShift, if_neg (by omega), h, neg_neg, Int.toNat_natCast]

/-- An octave is a doubling. -/
theorem octaveShift_double (o : Int) (b : Nat) : octaveShift o (2 * b) = octaveShift (o + 1) b := by
  rcases lt_trichotomy (o + 9) 0 with h | h | h
  · obtain ⟨n, hn⟩ : ∃ n : Nat, o + 9 = -((n + 1 : Nat) : Int) := ⟨(-(o + 10)).toNat, by omega⟩
    rw [octaveShift_down (n := n + 2) (by omega) (by omega), octaveShift_down (n := n + 1) (by omega) (by omega)]
    simp only [Nat.add_sub_cancel, show n + 2 - 1 = n + 1 from rfl]
    rw [pow_succ' 2 n, ← Nat.mul_add, pow_succ' 2 (n + 1), Nat.mul_div_mul_left _ _ two_pos, pow_succ' 2 n]
  · obtain rfl : o = -9 := by omega
    show (2 * b + 1) / 2 = b * 1
    omega
  · obtain ⟨n, hn⟩ : ∃ n : Nat, o + 8 = n := ⟨(o + 8).toNat, by omega⟩
    rw [octaveShift_up (by omega), octaveShift_up (by omega), show o + 1 + 8 = ((n + 1 : Nat) : Int) by omega, hn,
      Int.toNat_natCast, Int.toNat_natCast, pow_succ' 2 n]
    ring

theorem octaveShift_mono (o : Int) {a b : Nat} (h : a ≤ b) : octaveShift o a ≤ octaveShift o b := by
  unfold octaveShift
  split
  · exact Nat.mul_le_mul_right _ h
  · exact Nat.div_le_div_right (Nat.add_le_add_right h _)

/-- From octave −18 upward the divisor is at most 1024: base values so far apart stay apart. -/
theorem octaveShift_lt {o : Int} (ho : -18 ≤ o) {a b : Nat} (h : a + 1024 ≤ b) : octaveShift o a < octaveShift o b := by
  unfold octaveShift
  split
  · exact Nat.mul_lt_mul_of_pos_right (by omega) (by positivity)
  · have divisor : 2 ^ (-(o + 8)).toNat ≤ 2 ^ 10 := Nat.pow_le_pow_right two_pos (by omega)
    generalize 2 ^ ((-(o + 8)).toNat - 1) = half
    calc (a + half) / 2 ^ (-(o + 8)).toNat
        < (a + half) / 2 ^ (-(o + 8)).toNat + 1 := Nat.lt_succ_self _
      _ = (a + half + 2 ^ (-(o + 8)).toNat) / 2 ^ (-(o + 8)).toNat := (Nat.add_div_right _ (by positivity)).symm
      _ ≤ (b + half) / 2 ^ (-(o + 8)).toNat := Nat.div_le_div_right (by omega)

/-! ### Conv(q) (R60) -/

/-- Each base value is the whole number nearest 65,536 × 2^(r/24), told without roots. -/
theorem gainBase_nearest (r : Fin 24) : (2 * Config.gainBase.get r - 1) ^ 24 < 2 ^ (24 * 17 + r.val) ∧
    2 ^ (24 * 17 + r.val) < (2 * Config.gainBase.get r + 1) ^ 24 := by
  decide +revert +kernel

/-- Base values of neighbouring remainders lie further apart than 1024. -/
theorem gainBase_step {r r' : Fin 24} (h : r'.val = r.val + 1) :
    Config.gainBase.get r + 1024 ≤ Config.gainBase.get r' := by
  decide +revert +kernel

theorem conv_off {q : Int} (h : q ≤ -480) : conv q = 0 := if_pos h

/-- Above the step named off, Conv shifts the base value of the remainder by the octave. -/
theorem conv_eq {q o : Int} {r : Fin 24} (hq : -480 < q) (h : q = 24 * o + (r.val : Int)) :
    conv q = octaveShift o (Config.gainBase.get r) := by
  have octave : q / 24 = o := by omega
  have remainder : (⟨(q % 24).toNat % 24, Nat.mod_lt _ (by decide)⟩ : Fin 24) = r := Fin.ext (by dsimp only; omega)
  rw [conv, if_neg (by simpa using hq)]
  dsimp only
  rw [octave, remainder]
  rfl

/-- A step is an octave and a remainder. -/
theorem exists_octave (q : Int) : ∃ (o : Int) (r : Fin 24), q = 24 * o + (r.val : Int) :=
  ⟨q / 24, ⟨(q % 24).toNat, by omega⟩, by dsimp only; omega⟩

/-- The coefficients of a step and of the next are one shift of two base values more than 1024 apart. -/
theorem conv_step {q : Int} (hq : -480 < q) : ∃ (o : Int) (a b : Nat), 24 * o ≤ q ∧ q < 24 * (o + 1) ∧ a + 1024 ≤ b ∧
    conv q = octaveShift o a ∧ conv (q + 1) = octaveShift o b := by
  obtain ⟨o, r, h⟩ := exists_octave q
  by_cases last : r.val = 23
  · refine ⟨o, Config.gainBase.get r, 2 * Config.gainBase.get 0, by omega, by omega, ?_, conv_eq hq h, ?_⟩
    · obtain rfl : r = 23 := Fin.ext last
      decide
    · rw [octaveShift_double]
      exact conv_eq (by omega) (by simp only [Fin.val_zero]; omega)
  · let next : Fin 24 := ⟨r.val + 1, by omega⟩
    exact ⟨o, Config.gainBase.get r, Config.gainBase.get next, by omega, by omega, gainBase_step rfl, conv_eq hq h,
      conv_eq (by omega) (by simp only [next]; omega)⟩

/-- Conv never falls. -/
theorem conv_mono : Monotone conv := by
  refine monotone_int_of_le_succ fun q => ?_
  by_cases hq : q ≤ -480
  · rw [conv_off hq]
    exact Nat.zero_le _
  · obtain ⟨o, a, b, -, -, apart, here, next⟩ := conv_step (by omega : -480 < q)
    rw [here, next]
    exact octaveShift_mono o (by omega)

/-- From −432 upward every step has a coefficient of its own. -/
theorem conv_strict {q q' : Int} (hq : -432 ≤ q) (h : q < q') : conv q < conv q' := by
  obtain ⟨o, a, b, -, octave, apart, here, next⟩ := conv_step (by omega : -480 < q)
  calc conv q = octaveShift o a := here
    _ < octaveShift o b := octaveShift_lt (by omega) apart
    _ = conv (q + 1) := next.symm
    _ ≤ conv q' := conv_mono h

/-- Up to +96 no coefficient is above 2^28. -/
theorem conv_le {q : Int} (h : q ≤ 96) : conv q ≤ 268435456 :=
  calc conv q ≤ conv 96 := conv_mono h
    _ = 268435456 := by decide

/-- Settles O37: the two cases of the shift, and monotony from step to step. -/
theorem convIsR60 : Obligations.ConvIsR60 := by
  refine ⟨gainBase_nearest, fun q q' => conv_strict, fun q => conv_off, fun q o r hq h up => ?up,
    fun q o r n hq h down hn => ?down, fun q q' h => conv_mono h, fun q => conv_le⟩
  case up => rw [conv_eq hq h, octaveShift_up up]
  case down => rw [conv_eq hq h, octaveShift_down down hn]

/-! ### Step totals, gates and targets (R57 to R59, R61) -/

theorem clampSteps_eq (x : Int) : clampSteps x = max (-480) (min 96 x) := clampInt_eq (by decide) x

theorem clampSteps_le (x : Int) : clampSteps x ≤ 96 := by
  rw [clampSteps_eq]
  omega

/-- The five conditions that close a meter gate (R59). -/
theorem meterClosed_iff (s : State) (c : Chan) : meterClosed s c = true ↔ (channelAt s c).mute = true ∨
    (∃ g ∈ (channelAt s c).groups, (s.gsu.groups.get g).mute = true) ∨ s.gsu.gated.get c = true ∨
    (channelAt s c).source = .none ∨ alignAt s c = .overdepth := by
  simp [meterClosed, groupMuted, or_assoc]

/-- The conditions that close a send's gate: the meter gate's, On off, no Bus (R59). -/
theorem sendClosed_iff (s : State) (c : Chan) (k : SendIx) : sendClosed s c k = true ↔ meterClosed s c = true ∨
    ((channelAt s c).sends.get k).on = false ∨ ((channelAt s c).sends.get k).bus = none := by
  simp [sendClosed, or_assoc]

theorem sendTarget_closed {s : State} {c : Chan} {k : SendIx} (h : sendClosed s c k = true) : sendTarget s c k = 0 := if_pos h

theorem sendTarget_open {s : State} {c : Chan} {k : SendIx} (h : ¬ sendClosed s c k = true) :
    sendTarget s c k = conv (stepTotal s c k) := if_neg h

theorem meterTarget_closed {s : State} {c : Chan} (h : meterClosed s c = true) : meterTarget s c = 0 := if_pos h

theorem meterTarget_open {s : State} {c : Chan} (h : ¬ meterClosed s c = true) : meterTarget s c = conv (meterTotal s c) :=
  if_neg h

theorem sendTarget_le (s : State) (c : Chan) (k : SendIx) : sendTarget s c k ≤ 268435456 := by
  unfold sendTarget
  split
  · exact Nat.zero_le _
  · exact conv_le (clampSteps_le _)

theorem meterTarget_le (s : State) (c : Chan) : meterTarget s c ≤ 268435456 := by
  unfold meterTarget
  split
  · exact Nat.zero_le _
  · exact conv_le (clampSteps_le _)

/-- Settles O38: the gate of each path told by its conditions, and the clamped step total behind an open one. -/
theorem targetsFollowTotalsAndGates : Obligations.TargetsFollowTotalsAndGates := by
  intro s c r masters meterGate
  have gate : meterClosed s c = true ↔ meterGate := meterClosed_iff s c
  refine ⟨fun k => ?send, fun h => meterTarget_closed (gate.mpr h), fun h => ?meter, meterTarget_le s c⟩
  case send =>
    intro sendGate
    have closed : sendClosed s c k = true ↔ sendGate := (sendClosed_iff s c k).trans (or_congr_left gate)
    refine ⟨fun h => sendTarget_closed (closed.mpr h), fun h => ?_, sendTarget_le s c k⟩
    rw [sendTarget_open (mt closed.mp h), ← clampSteps_eq]
    rfl
  case meter =>
    rw [meterTarget_open (mt gate.mp h), ← clampSteps_eq]
    rfl

end Sys2Proof.Machine
end

section
/-! Glides (R66, R67), and the contributions of the sends with the lane words they sum to (R70 to R73). -/

namespace Sys2Proof.Machine

/-! ### The frames of a glide (R66, R67) -/

/-- The exact value of a frame of a glide, between the start and the target (R66). -/
theorem glideValue_mem (c0 t : Nat) {j : Nat} (hj : j ≤ 16) :
    (glideValue c0 t j : Int) = c0 + roundDiv (((t : Int) - c0) * j) 16 ∧
    min c0 t ≤ glideValue c0 t j ∧ glideValue c0 t j ≤ max c0 t := by
  have between : min 0 ((t : Int) - c0) ≤ roundDiv (((t : Int) - c0) * j) 16 ∧
      roundDiv (((t : Int) - c0) * j) 16 ≤ max 0 ((t : Int) - c0) := by
    apply roundDiv_mem (by decide)
    all_goals
      generalize (t : Int) - c0 = x
      interval_cases j <;> push_cast <;> omega
  have value : (glideValue c0 t j : Int) = c0 + roundDiv (((t : Int) - c0) * j) 16 :=
    Int.toNat_of_nonneg (show 0 ≤ (c0 : Int) + roundDiv (((t : Int) - c0) * j) 16 by omega)
  omega

/-- The sixteenth frame is the target. -/
theorem glideValue_last (c0 t : Nat) : glideValue c0 t 16 = t := by
  have last : (glideValue c0 t 16 : Int) = c0 + ((t : Int) - c0) := by
    rw [(glideValue_mem c0 t le_rfl).1]
    exact congrArg _ (roundDiv_mul (d := 16) (by decide) _)
  omega

section
variable {p : SendPath} {c0 t0 t j : Nat}

theorem startGlide_holds (h : t = p.coef) : startGlide p t = { p with glide := .holding } := if_pos h

theorem startGlide_begins (h : t ≠ p.coef) :
    startGlide p t = { p with glide := .gliding p.coef t 1, coef := glideValue p.coef t 1 } := if_neg h

theorem glideStep_holding (h : p.glide = .holding) : glideStep p t = startGlide p t := by
  rw [glideStep, h]

/-- Toward a standing target a glide runs on until its sixteenth frame. -/
theorem glideStep_runs (h : p.glide = .gliding c0 t j) (hj : j < 16) :
    glideStep p t = { p with glide := .gliding c0 t (j + 1), coef := glideValue c0 t (j + 1) } := by
  rw [glideStep, h]
  exact if_pos ⟨rfl, hj⟩

/-- After the sixteenth frame, or where the target is another, the current coefficient decides. -/
theorem glideStep_restarts (h : p.glide = .gliding c0 t0 j) (hn : t ≠ t0 ∨ 16 ≤ j) : glideStep p t = startGlide p t := by
  rw [glideStep, h]
  exact if_neg (by rintro ⟨same, running⟩; simp only [Config.glideFrames] at running; omega)

/-- A send that holds its target stays as it is. -/
theorem glideStep_stays (h : p.glide = .holding) (ht : t = p.coef) : glideStep p t = p := by
  rw [glideStep_holding h, startGlide_holds ht, ← h]

end

/-- The frames of a glide from Holding toward another target. -/
theorem iterate_glideStep {p : SendPath} {t : Nat} (h : p.glide = .holding) (ht : t ≠ p.coef) (n : Nat) (hn : n < 16) :
    (fun x => glideStep x t)^[n + 1] p =
      { p with glide := .gliding p.coef t (n + 1), coef := glideValue p.coef t (n + 1) } := by
  induction n with
  | zero => exact (glideStep_holding h).trans (startGlide_begins ht)
  | succ n ih =>
    rw [Function.iterate_succ_apply', ih (by omega)]
    exact glideStep_runs rfl hn

/-- Settles O39: the frames of a glide one by one, and the frame that meets another target. -/
theorem glideReachesTargetInSixteenFrames : Obligations.GlideReachesTargetInSixteenFrames := by
  refine ⟨fun p t h => ⟨fun n hn hn' => ?frame, glideStep_stays h⟩,
    fun p c0 t0 j t h ht => ⟨fun same => ?holds, fun other => ?begins⟩⟩
  case frame =>
    by_cases ht : t = p.coef
    · have stands : (fun x => glideStep x t)^[n] p = p := Function.iterate_fixed (glideStep_stays h ht) n
      have still : roundDiv (((t : Int) - p.coef) * n) 16 = 0 := by
        rw [ht, sub_self, zero_mul]
        exact roundDiv_zero (by decide)
      rw [stands, still]
      dsimp only
      rw [glideStep_stays h ht]
      exact ⟨by omega, by omega, by omega, fun _ => ⟨ht.symm, h, ht.symm⟩⟩
    · obtain ⟨m, rfl⟩ : ∃ m, n = m + 1 := ⟨n - 1, by omega⟩
      obtain ⟨value, lower, upper⟩ := glideValue_mem p.coef t hn'
      rw [iterate_glideStep h ht m (by omega)]
      refine ⟨lower, upper, value, fun last => ?_⟩
      obtain rfl : m = 15 := by omega
      have reached := glideValue_last p.coef t
      rw [glideStep_restarts rfl (.inr le_rfl), startGlide_holds reached.symm]
      exact ⟨reached, rfl, reached⟩
  case holds => rw [glideStep_restarts h (.inl ht), startGlide_holds same]
  case begins =>
    rw [glideStep_restarts h (.inl ht), startGlide_begins other]
    refine ⟨rfl, (glideValue_mem p.coef t (by decide : 1 ≤ 16)).1.trans ?_⟩
    rw [Nat.cast_one, mul_one]

/-! ### One contribution (R70) -/

/-- The exact product of a contribution, its sign applied. -/
def contributionProduct (invert : Bool) (x : Sample) (coef k : Nat) : Int :=
  (if invert then -1 else 1) * x.toInt * coef * k

theorem contribution_eq (invert : Bool) (x : Sample) (coef k : Nat) :
    contribution invert x coef k = roundDiv (contributionProduct invert x coef k) (2 ^ 29) := rfl

theorem contribution_invert (x : Sample) (coef k : Nat) : contribution true x coef k = - contribution false x coef k := by
  have opposite : contributionProduct true x coef k = - contributionProduct false x coef k := by
    simp [contributionProduct]
  rw [contribution_eq, contribution_eq, opposite, roundDiv_neg (by decide)]

/-- Unity at the top of the switch ramp gives the sample. -/
theorem contribution_unity (x : Sample) : contribution false x 16777216 32 = x.toInt := by
  have product : contributionProduct false x 16777216 32 = x.toInt * ((2 ^ 29 : Nat) : Int) := by
    simp [contributionProduct, mul_assoc]
  rw [contribution_eq, product, roundDiv_mul (by decide)]

/-- A closed send, or one at switch factor 0, contributes nothing. -/
theorem contribution_zero (invert : Bool) (x : Sample) {coef k : Nat} (h : coef = 0 ∨ k = 0) :
    contribution invert x coef k = 0 := by
  have product : contributionProduct invert x coef k = 0 := by
    rcases h with rfl | rfl <;> simp [contributionProduct]
  rw [contribution_eq, product, roundDiv_zero (by decide)]

theorem contributionProduct_natAbs (invert : Bool) (x : Sample) (coef k : Nat) :
    (contributionProduct invert x coef k).natAbs = x.toInt.natAbs * coef * k := by
  cases invert <;> simp [contributionProduct, Int.natAbs_mul]

/-- No contribution is larger than 2^27: a full sample at the largest coefficient and factor. -/
theorem contribution_natAbs_le (invert : Bool) (x : Sample) {coef k : Nat} (hc : coef ≤ 268435456) (hk : k ≤ 32) :
    (contribution invert x coef k).natAbs ≤ 2 ^ 27 := by
  obtain ⟨lower, upper⟩ := sample_mem x
  have product : (contributionProduct invert x coef k).natAbs ≤ 8388608 * 268435456 * 32 := by
    rw [contributionProduct_natAbs]
    gcongr
    omega
  have between := roundDiv_mem (d := 2 ^ 29) (by decide) (lo := -2 ^ 27) (hi := 2 ^ 27)
    (n := contributionProduct invert x coef k) (by norm_num; omega) (by norm_num; omega)
  rw [contribution_eq]
  omega

/-! ### Lane words (R71 to R73) -/

/-- A send contributes to its bus in force and to no other. -/
theorem sendContribution_other {s : State} {b : Bus} {c : Chan} {k : SendIx} (h : ((pathAt s c).sends.get k).bus ≠ some b) :
    sendContribution s b c k = 0 := if_neg h

theorem laneSum_eq (s : State) (b : Bus) : laneSum s b = ∑ c : Chan, ∑ k : SendIx, sendContribution s b c k := by
  simp only [laneSum, Fin.sum_univ_def]

theorem laneSum_unsent {s : State} {b : Bus} (h : ∀ c k, ((pathAt s c).sends.get k).bus ≠ some b) : laneSum s b = 0 := by
  rw [laneSum_eq]
  exact Finset.sum_eq_zero fun c _ => Finset.sum_eq_zero fun k _ => sendContribution_other (h c k)

theorem laneWords_get (s : State) (b : Bus) : (laneWords s).get b = saturate32 (laneSum s b) := Table.get_make _ b

theorem laneClips_iff (s : State) : laneClips s = true ↔ ∃ b, laneSum s b < -2147483648 ∨ 2147483647 < laneSum s b := by
  simp [laneClips, exceeds32_iff]

/-- Settles O40: one contribution by the book's rounding of its product, and the lane words by their exact sums. -/
theorem contributionsSumToLaneWords : Obligations.ContributionsSumToLaneWords := by
  refine ⟨fun invert x coef k => ?near, contribution_invert, contribution_unity,
    fun invert x n => ⟨contribution_zero invert x (.inl rfl), contribution_zero invert x (.inr rfl)⟩,
    fun invert x coef k => contribution_natAbs_le invert x, by decide +kernel, by decide +kernel,
    fun s b => ⟨?word, laneSum_eq s b, fun h => ?unsent, laneClips_iff s⟩⟩
  case near => exact roundDiv_near (d := 2 ^ 29) (by decide) (contributionProduct invert x coef k)
  case word => rw [laneWords_get, saturate32_toInt]
  case unsent =>
    rw [laneWords_get, laneSum_unsent h]
    rfl

end Sys2Proof.Machine
end

section
/-! The close of a frame at a strobe, and the totals of the frame the strobe opens (R73, R125 to R133). -/

namespace Sys2Proof.Machine

/-! ### What a close leaves in the datapath (R127, R129, R131) -/

/-- What a close forms: the bus histories, the output samples, and the Clip flag. -/
def closedPart (s : State) : Table 48 (Table 15 Sample) × Table 16 Sample × Bool :=
  (s.mxd.busHistory, s.mxd.outputs, s.stc.conditions.getLsbD 0)

theorem closedPart_congr {s t : State} (hm : t.mxd = s.mxd) (hc : t.stc.conditions.getLsbD 0 = s.stc.conditions.getLsbD 0) :
    closedPart t = closedPart s := by
  rw [closedPart, closedPart, hm, hc]

theorem closedPart_setPath (s : State) (c : Chan) (p : ChannelPath) : closedPart (setPath s c p) = closedPart s := by
  simp [closedPart, setPath]

/-- An Overdepth report leaves what a close formed (R177). -/
theorem closedPart_overdepth (b : Bool) (s : State) : closedPart (raiseIf b .overdepth s) = closedPart s :=
  closedPart_congr (by simp) (raiseIf_bit_ne b s 0 (by decide))

theorem closedPart_settle (s : State) : closedPart (settle s) = closedPart s := by
  obtain ⟨hhist, -, houtputs⟩ := settle_mxd s
  rw [closedPart, hhist, houtputs]
  exact congrArg _ (congrArg _ (settle_bit_ne s 0 (by decide)))

/-! ### What the changes and the forming of the frame leave of it -/

theorem closedPart_writeSource (c : Chan) (w : Word) (s : State) : closedPart (writeSource c w s) = closedPart s := by
  unfold writeSource
  dsimp only
  rw [closedPart_settle, closedPart_overdepth, closedPart_setPath]
  exact closedPart_congr (by simp) (by simp)

theorem closedPart_writeSendBus (c : Chan) (k : SendIx) (w : Word) (s : State) :
    closedPart (writeSendBus c k w s) = closedPart s := by
  unfold writeSendBus
  dsimp only
  rw [closedPart_settle, closedPart_setPath]
  exact closedPart_congr (by simp) (by simp)

theorem closedPart_applyWrite (c : Chan) (id : BitVec 16) (w : Word) (s : State) :
    closedPart (applyWrite c id w s) = closedPart s := by
  unfold applyWrite
  cases paramOf id with
  | source => exact closedPart_writeSource c w s
  | sendBus k => exact closedPart_writeSendBus c k w s
  | _ => exact closedPart_congr (by simp) (by simp)

theorem closedPart_applyChange (s : State) (x : LaneChange) : closedPart (applyChange s x) = closedPart s := by
  unfold applyChange
  split
  · exact closedPart_applyWrite _ _ _ s
  · exact closedPart_congr (by simp) (by simp)

/-- The changes of a strobe leave what the close formed (R166, R168). -/
theorem closedPart_changesAtStrobe (e : StrobeEvent) (s : State) : closedPart (changesAtStrobe e s) = closedPart s := by
  have flushed : closedPart (if flushes e then flushQueue s else s) = closedPart s := by
    split
    · exact closedPart_congr (by simp) (by simp)
    · rfl
  unfold changesAtStrobe
  dsimp only
  generalize (if flushes e then flushQueue s else s) = r at flushed ⊢
  split
  · exact (foldl_keeps closedPart_applyChange _ _).trans flushed
  · exact flushed

/-- The ramps, the coefficients and the histories of the channels leave it too (R116, R130). -/
theorem closedPart_formFrame (entering : Bool) (inputs : Table 48 Sample) (s : State) :
    closedPart (formFrame entering inputs s) = closedPart s := by
  cases entering <;> rfl

/-- The close is made in the state the station's move at the strobe leaves. -/
theorem closedPart_formedAtStrobe (p : Position) (inputs : Table 48 Sample) (s : State) :
    closedPart (formedAtStrobe p inputs s) = closedPart (closeFrame (stationAtStrobe (takeStrobe p s))) := by
  rw [formedAtStrobe, closedPart_formFrame, closedPart_changesAtStrobe]

/-- Outside Isolated the move of the station leaves the datapath (R25, R27). -/
theorem stationAtStrobe_mxd {s : State} (h : s.stc.station ≠ .isolated) : (stationAtStrobe s).mxd = s.mxd := by
  unfold stationAtStrobe
  cases hs : s.stc.station with
  | isolated => exact absurd hs h
  | joining => cases hj : s.stc.joiningComplete <;> simp
  | booting | listening | contributing | silent => rfl

/-! ### The close (R127 to R129, R131) -/

theorem raise_clipFlag (s : State) : (raise .clip s).stc.conditions.getLsbD 0 = true := by
  rw [raise_eq]
  simpa [conditionNumber] using withCondition_bit s.stc.conditions .clip 0

/-- A report of Clip sets its flag where it occurred, and never clears it. -/
theorem raiseIf_clipFlag {b : Bool} {s : State} (h : b = true ∨ s.stc.conditions.getLsbD 0 = true) :
    (raiseIf b .clip s).stc.conditions.getLsbD 0 = true := by
  rcases h with rfl | h
  · exact raise_clipFlag s
  · exact flag_of_kept (raiseIf_keeps_flags b .clip s) h

theorem closeFrame_of_some {s : State} {totals : Table 48 Int} (h : s.mxd.totals = some totals) :
    (closeFrame s).mxd.busHistory = closedHistory s totals ∧
    (closeFrame s).mxd.outputs = Table.make (fun o => slotOutput (closedHistory s totals) (s.mxd.slots.get o)) ∧
    ((∃ b, totals.get b < -8388608 ∨ 8388607 < totals.get b) → (closeFrame s).stc.conditions.getLsbD 0 = true) := by
  rw [closeFrame, h]
  refine ⟨by simp, by simp, fun ⟨b, exceeded⟩ => raiseIf_clipFlag (.inl ?_)⟩
  exact (Table.any_cells totals exceeds24).mpr ⟨b, (exceeds24_iff _).mpr exceeded⟩

/-- The newest entry is the saturated total; the others move one place (R127, R129). -/
theorem closedHistory_get (s : State) (totals : Table 48 Int) (b : Bus) :
    (((closedHistory s totals).get b).get 0).toInt = max (-8388608) (min 8388607 (totals.get b)) ∧
    ∀ i : Fin 14, ((closedHistory s totals).get b).get i.succ = (s.mxd.busHistory.get b).get i.castSucc := by
  rw [closedHistory, Table.get_make, Table.get_push_zero, saturate24_toInt]
  exact ⟨rfl, fun i => Table.get_push_succ _ _ i⟩

theorem slotOutput_unassigned (hist : Table 48 (Table 15 Sample)) {p : SlotPath} (h : p.bus = none) : slotOutput hist p = 0 := by
  rw [slotOutput, h]

/-- Up to the top of its ramp a slot's rounded product is a sample: it is not cut (R131). -/
theorem slotOutput_toInt (hist : Table 48 (Table 15 Sample)) {p : SlotPath} {b : Bus} (h : p.bus = some b)
    (hk : p.ramp.k ≤ 32) :
    (slotOutput hist p).toInt = roundDiv (((hist.get b).get p.delay).toInt * p.ramp.k) 32 := by
  rw [slotOutput, h]
  dsimp only
  obtain ⟨lower, upper⟩ := sample_mem ((hist.get b).get p.delay)
  generalize ((hist.get b).get p.delay).toInt = x at lower upper ⊢
  have factor : (0 : Int) ≤ p.ramp.k := Int.natCast_nonneg _
  have low := Int.mul_le_mul_of_nonneg_right lower factor
  have high := Int.mul_le_mul_of_nonneg_right upper factor
  obtain ⟨above, below⟩ := roundDiv_mem (d := 32) (by decide) (lo := -8388608) (hi := 8388607) (n := x * p.ramp.k)
    (by push_cast; omega) (by push_cast; omega)
  rw [BitVec.toInt_ofInt, Int.bmod_eq_of_le] <;> norm_num <;> omega

/-! ### The totals of the frame a strobe opens (R73, R125, R126) -/

/-- The sums read the Channel Table and what the datapath holds for the channels. -/
theorem laneSum_congr {s t : State} (hp : t.mxd.channels = s.mxd.channels) (hs : t.sst = s.sst) (b : Bus) :
    laneSum t b = laneSum s b := by
  have contributions : sendContribution t b = sendContribution s b := by
    funext c k
    unfold sendContribution pathAt channelAt
    rw [hp, hs]
  rw [laneSum, laneSum, contributions]

/-- In Contributing the totals begin with the own lane words, and a saturated one is a Clip occurrence. -/
theorem openByStation_ownWords (before : State) {s : State} (h : s.stc.station = .contributing) :
    (openByStation before s).mxd.totals = some (Table.make fun b => ((laneWords s).get b).toInt) ∧
    (openByStation before s).stc = (raiseIf (laneClips s) .clip s).stc := by
  rw [openByStation, h]
  simp [openContributing, ownWordsEnter, openTotals]

/-- In the other states that form frames the totals begin at 0. -/
theorem openByStation_zeroTotals (before : State) {s : State} (hc : s.stc.station ≠ .contributing)
    (hb : s.stc.station ≠ .booting) (hi : s.stc.station ≠ .isolated) :
    (openByStation before s).mxd.totals = some (Table.make fun _ => 0) ∧ (openByStation before s).stc = s.stc := by
  unfold openByStation
  cases hs : s.stc.station with
  | contributing => exact absurd hs hc
  | booting => exact absurd hs hb
  | isolated => exact absurd hs hi
  | joining | listening | silent => exact ⟨rfl, rfl⟩

/-- Opening a frame does not clear the Clip flag. -/
theorem openByStation_clipFlag (before : State) {s : State} (h : s.stc.conditions.getLsbD 0 = true) :
    (openByStation before s).stc.conditions.getLsbD 0 = true := by
  by_cases hc : s.stc.station = .contributing
  · rw [(openByStation_ownWords before hc).2]
    exact raiseIf_clipFlag (.inr h)
  · unfold openByStation
    cases hs : s.stc.station with
    | contributing => exact absurd hs hc
    | booting | isolated | joining | listening | silent => exact h

/-- Outside Booting a strobe leaves the station in a state that opens a frame (R25, R27, R32). -/
theorem formedAtStrobe_linked (p : Position) (inputs : Table 48 Sample) {s : State} (hb : s.stc.station ≠ .booting) :
    (formedAtStrobe p inputs s).stc.station ≠ .booting ∧ (formedAtStrobe p inputs s).stc.station ≠ .isolated := by
  obtain ⟨-, station, -⟩ := formedAtStrobe_station p inputs s
  rw [station]
  cases hs : s.stc.station with
  | booting => exact absurd hs hb
  | joining => cases s.stc.joiningComplete <;> simp
  | listening | contributing | silent | isolated => simp

/-- The slot of a place of an output port (R132). -/
theorem portSample_eq (t : State) {o : SlotIx} {port : OutPortIx} {place : OutPlaceIx} (hport : port.val = o.val / 8)
    (hplace : place.val = o.val - 8 * (o.val / 8)) : portSample t port place = t.mxd.outputs.get o := by
  have slot : slotOnPort port place = o := Fin.ext (by simp only [slotOnPort]; omega)
  rw [portSample, slot]

/-! ### The statement -/

/-- Settles O49: the histories, outputs and Clip flag the close forms stand through the strobe, which then opens the totals. -/
theorem strobeClosesFrame : Obligations.StrobeClosesFrame := by
  intro p inputs s hpin hb hi
  have mxd : (stationAtStrobe (takeStrobe p s)).mxd = s.mxd := (stationAtStrobe_mxd (by simpa using hi)).trans (by simp)
  have formed := closedPart_formedAtStrobe p inputs s
  generalize stationAtStrobe (takeStrobe p s) = r at mxd formed
  obtain ⟨hhist, houtputs, hclip⟩ : (formedAtStrobe p inputs s).mxd.busHistory = (closeFrame r).mxd.busHistory ∧
      (formedAtStrobe p inputs s).mxd.outputs = (closeFrame r).mxd.outputs ∧
      (formedAtStrobe p inputs s).stc.conditions.getLsbD 0 = (closeFrame r).stc.conditions.getLsbD 0 := by
    simpa only [closedPart, Prod.mk.injEq] using formed
  obtain ⟨hbooting, hisolated⟩ := formedAtStrobe_linked p inputs hb
  refine ⟨strobeTaken p inputs s, exec_strobe p inputs s hpin, ?_⟩
  rw [strobeTaken_eq p inputs s hb]
  generalize formedAtStrobe p inputs s = f at hhist houtputs hclip hbooting hisolated ⊢
  obtain ⟨channels, -, hist, -, outputs⟩ := openByStation_mxd s f
  have station : (openByStation s f).stc.station = f.stc.station := by simp
  have sums := laneSum_congr channels (by simp : (openByStation s f).sst = f.sst)
  rw [hist, outputs, hhist, houtputs]
  refine ⟨fun closed => ?none, fun totals opened => ?some, fun o port place => ?port, ?opens⟩
  case none =>
    rw [closeFrame_of_none (by rw [mxd, closed]), mxd]
    exact ⟨rfl, rfl⟩
  case some =>
    obtain ⟨newHist, newOutputs, clips⟩ := closeFrame_of_some (s := r) (by rw [mxd, opened])
    rw [newHist, newOutputs, mxd]
    refine ⟨fun b => ?_, fun o unassigned => ?_, fun o b assigned hk => ?_, fun exceeded => ?_⟩
    · rw [← mxd]
      exact closedHistory_get r totals b
    · rw [Table.get_make, slotOutput_unassigned _ unassigned]
    · rw [Table.get_make, slotOutput_toInt _ assigned hk]
    · exact openByStation_clipFlag s (hclip.trans (clips exceeded))
  case port =>
    intro hport hplace
    rw [portSample_eq _ hport hplace, outputs, houtputs]
  case opens =>
    rw [station]
    by_cases hc : f.stc.station = .contributing
    · obtain ⟨totals, stc⟩ := openByStation_ownWords s hc
      refine ⟨_, totals, fun other => absurd hc other, fun _ => ⟨fun b => ?_, fun clips => ?_⟩⟩
      · rw [Table.get_make, laneWords_get, laneWords_get, sums]
      · rw [stc]
        exact raiseIf_clipFlag (.inl ((laneClips_iff f).mpr (by simpa only [laneClips_iff, sums] using clips)))
    · obtain ⟨totals, -⟩ := openByStation_zeroTotals s hc hbooting hisolated
      exact ⟨_, totals, fun _ b => Table.get_make _ b, fun other => absurd other hc⟩

end Sys2Proof.Machine
end

section
/-! Groups and solo: the entry a Group Level change writes, and the own scope bits, the link scope state and the solo gating
through every step (R75 to R86). -/

namespace Sys2Proof.Machine

/-! ### The entry of a Group Level change (R76, R77) -/

/-- The entry a Group Level change writes (R76). -/
def levelledEntry (gf m : Word) : GroupEntry :=
  { master := stepsOf (-480) 48 m, mute := gf.getLsbD 0, solo := gf.getLsbD 1 }

/-- A Group Level change that names an entry writes it, and the solo state follows (R76, R77). -/
theorem applyGroupLevel_of_named {gf : Word} {g : GroupIx} (h : field gf 16 16 = g.val) (m : Word) (s : State) :
    applyGroupLevel gf m s = evalSolo (s.setGsu { s.gsu with groups := s.gsu.groups.put g (levelledEntry gf m) }) := by
  rw [applyGroupLevel, groupOf_eq_some.mpr h.symm]
  rfl

theorem applyGroupLevel_of_unnamed {gf : Word} (h : 32 ≤ field gf 16 16) (m : Word) (s : State) :
    applyGroupLevel gf m s = s := by
  rw [applyGroupLevel, groupOf, dif_neg (by omega)]

/-- Settles O41: the named entry is put in the Group Table, and the solo state that follows leaves that table. -/
theorem groupLevelWritesNamedEntry : Obligations.GroupLevelWritesNamedEntry := by
  intro gf m s
  refine ⟨fun g hg => ?named, fun h => applyGroupLevel_of_unnamed h m s⟩
  case named =>
    have groups : (applyGroupLevel gf m s).gsu.groups = s.gsu.groups.put g (levelledEntry gf m) := by
      simp [applyGroupLevel_of_named hg]
    have entry : (applyGroupLevel gf m s).gsu.groups.get g = levelledEntry gf m := by
      rw [groups, Table.get_put_self]
    dsimp only
    rw [entry]
    refine ⟨clampInt_eq (by decide) _, rfl, rfl, fun h hne => ?_, ?_⟩
    · rw [groups, Table.get_put_ne _ hne]
    · rw [applyGroupLevel_of_named hg]; rfl

/-! ### The three parts of a sound solo state (R81, R83, R86) -/

/-- A Present peer lane carries the scope (R83). -/
def PeerScope (s : State) (sc : ScopeIx) : Prop :=
  ∃ n, n ≠ s.stc.nodeId ∧ (laneAt s n).presence = .present ∧ (laneAt s n).scopes.get sc = true

/-- The own scope bits are those of the soloed channels (R81). -/
def OwnScopesOk (s : State) : Prop :=
  ∀ sc, s.gsu.ownScopes.get sc = true ↔ ∃ c, (channelAt s c).scope = sc ∧ Soloed s c

/-- The link scope state is the own bits and the peers' (R83). -/
def LinkScopesOk (s : State) : Prop :=
  ∀ sc, s.gsu.linkScopes.get sc = true ↔ s.gsu.ownScopes.get sc = true ∨ PeerScope s sc

/-- The channels gated are those of an active scope, neither soloed nor Solo Safe (R86). -/
def GatingOk (s : State) : Prop :=
  ∀ c, s.gsu.gated.get c = true ↔ s.gsu.linkScopes.get (channelAt s c).scope = true ∧ ¬ Soloed s c ∧
    (channelAt s c).soloSafe = false

theorem soloOk_iff (s : State) : SoloOk s ↔ OwnScopesOk s ∧ LinkScopesOk s ∧ GatingOk s := Iff.rfl

/-! ### What each evaluation makes sound -/

theorem soloed_iff (s : State) (c : Chan) : soloed s c = true ↔ Soloed s c := by
  simp [soloed, Soloed]

theorem ownScopesOf_iff (s : State) (sc : ScopeIx) :
    (ownScopesOf s).get sc = true ↔ ∃ c, (channelAt s c).scope = sc ∧ Soloed s c := by
  simp [ownScopesOf, soloed_iff]

theorem soloGated_iff (s : State) (c : Chan) : soloGated s c = true ↔
    s.gsu.linkScopes.get (channelAt s c).scope = true ∧ ¬ Soloed s c ∧ (channelAt s c).soloSafe = false := by
  simp [soloGated, ← soloed_iff, and_assoc]

theorem evalOwnScopes_ownScopesOk (s : State) : OwnScopesOk (evalOwnScopes s) := ownScopesOf_iff s

/-- The gating evaluated over sound scopes leaves a sound solo state. -/
theorem evalGating_soloOk {s : State} (own : OwnScopesOk s) (link : LinkScopesOk s) : SoloOk (evalGating s) :=
  ⟨own, link, fun c => (Bool.eq_iff_iff.mp (Table.get_make _ c)).trans (soloGated_iff s c)⟩

/-- The link scope state evaluated over sound own scope bits leaves a sound solo state (R84, R86). -/
theorem evalLinkScopes_soloOk {s : State} (own : OwnScopesOk s) : SoloOk (evalLinkScopes s) :=
  evalGating_soloOk (s := s.setGsu { s.gsu with linkScopes := linkScopesOf s }) own (linkScopesOf_iff s)

theorem evalSolo_soloOk (s : State) : SoloOk (evalSolo s) :=
  evalLinkScopes_soloOk (evalOwnScopes_ownScopesOk s)

/-! ### What a sound solo state reads -/

/-- What the own scope bits read of a channel record (R80, R81). -/
def ChannelRecord.soloPart (r : ChannelRecord) : ScopeIx × Bool × List GroupIx :=
  (r.scope, r.solo, r.groups)

section
variable {s t : State}

theorem OwnScopesOk.congr (own : OwnScopesOk s) (hg : t.gsu = s.gsu)
    (hc : ∀ c, (channelAt t c).soloPart = (channelAt s c).soloPart) : OwnScopesOk t := by
  simp only [ChannelRecord.soloPart, Prod.mk.injEq, forall_and] at hc
  obtain ⟨hscope, hsolo, hgroups⟩ := hc
  simpa only [OwnScopesOk, Soloed, hg, hscope, hsolo, hgroups] using own

theorem LinkScopesOk.congr (link : LinkScopesOk s) (hg : t.gsu = s.gsu) (hp : ∀ sc, PeerScope t sc ↔ PeerScope s sc) :
    LinkScopesOk t := by
  simpa only [LinkScopesOk, hg, hp] using link

theorem GatingOk.congr (gating : GatingOk s) (hg : t.gsu = s.gsu)
    (hc : ∀ c, (channelAt t c).soloPart = (channelAt s c).soloPart)
    (hsafe : ∀ c, (channelAt t c).soloSafe = (channelAt s c).soloSafe) : GatingOk t := by
  simp only [ChannelRecord.soloPart, Prod.mk.injEq, forall_and] at hc
  obtain ⟨hscope, hsolo, hgroups⟩ := hc
  simpa only [GatingOk, Soloed, hg, hscope, hsolo, hgroups, hsafe] using gating

/-- The solo settings of the channels and what the peers carry stand, and so does the soundness of the solo state. -/
theorem SoloOk.congr (i : SoloOk s) (hg : t.gsu = s.gsu) (hc : ∀ c, (channelAt t c).soloPart = (channelAt s c).soloPart)
    (hsafe : ∀ c, (channelAt t c).soloSafe = (channelAt s c).soloSafe) (hp : ∀ sc, PeerScope t sc ↔ PeerScope s sc) :
    SoloOk t := by
  obtain ⟨own, link, gating⟩ := (soloOk_iff s).mp i
  exact ⟨own.congr hg hc, link.congr hg hp, gating.congr hg hc hsafe⟩

/-- With the Channel Table and the Group and Solo Unit as they were, only what the peers carry matters. -/
theorem SoloOk.of_tables (i : SoloOk s) (hs : t.sst = s.sst) (hg : t.gsu = s.gsu)
    (hp : ∀ sc, PeerScope t sc ↔ PeerScope s sc) : SoloOk t :=
  i.congr hg (fun c => by rw [channelAt_congr hs]) (fun c => by rw [channelAt_congr hs]) hp

theorem peerScope_congr (hn : t.stc.nodeId = s.stc.nodeId) (hl : t.lif.lanes = s.lif.lanes) (sc : ScopeIx) :
    PeerScope t sc ↔ PeerScope s sc := by
  simp only [PeerScope, laneAt, hn, hl]

/-- The soundness of the solo state depends on the Channel Table, the Group and Solo Unit, the node ID and the lane
records. -/
theorem SoloOk.of_blocks (i : SoloOk s) (hs : t.sst = s.sst ∧ t.gsu = s.gsu)
    (hl : t.stc.nodeId = s.stc.nodeId ∧ t.lif.lanes = s.lif.lanes) : SoloOk t := by
  obtain ⟨hsst, hgsu⟩ := hs
  obtain ⟨hnode, hlanes⟩ := hl
  exact i.of_tables hsst hgsu (peerScope_congr hnode hlanes)

end

/-! ### What the peers carry -/

theorem not_peerScope_of_cleared {s : State} (h : s.lif.lanes = Table.fill 16 LaneRecord.cleared) (sc : ScopeIx) :
    ¬ PeerScope s sc := by
  simp [PeerScope, laneAt, h, LaneRecord.cleared]

/-- A record that carries what the one before it carried changes nothing; nor does the own-index record (R83). -/
theorem peerScope_setLane {s : State} {lane : LaneIx} {r : LaneRecord} {sc : ScopeIx}
    (h : lane ≠ s.stc.nodeId → (r.presence = .present ∧ r.scopes.get sc = true ↔
      (laneAt s lane).presence = .present ∧ (laneAt s lane).scopes.get sc = true)) :
    PeerScope (setLane s lane r) sc ↔ PeerScope s sc := by
  have same : ∀ n, n ≠ s.stc.nodeId →
      ((laneAt (setLane s lane r) n).presence = .present ∧ (laneAt (setLane s lane r) n).scopes.get sc = true ↔
        (laneAt s n).presence = .present ∧ (laneAt s n).scopes.get sc = true) := by
    intro n hn
    by_cases hl : n = lane
    · subst hl; rw [laneAt_setLane_self]; exact h hn
    · rw [laneAt_setLane_ne s hl]
  exact exists_congr fun n => and_congr_right fun hn => same n (by simpa using hn)

theorem SoloOk.setLane {s : State} (i : SoloOk s) {lane : LaneIx} {r : LaneRecord}
    (h : lane ≠ s.stc.nodeId → ∀ sc, (r.presence = .present ∧ r.scopes.get sc = true ↔
      (laneAt s lane).presence = .present ∧ (laneAt s lane).scopes.get sc = true)) : SoloOk (setLane s lane r) :=
  i.of_tables rfl rfl fun sc => peerScope_setLane fun hn => h hn sc

/-- The own-index record takes no part (R11, R83). -/
theorem SoloOk.setOwnLane {s : State} (i : SoloOk s) (r : LaneRecord) : SoloOk (Machine.setLane s s.stc.nodeId r) :=
  i.setLane fun hn => absurd rfl hn

/-! ### Resets -/

/-- With every block at its power-on values the solo state is sound, whatever the node ID (R33, R90). -/
theorem soloOk_of_powerOn {t : State} (hs : t.sst = State.reset.sst ∧ t.gsu = State.reset.gsu)
    (hl : t.lif.lanes = State.reset.lif.lanes) : SoloOk t := by
  obtain ⟨hsst, hgsu⟩ := hs
  exact reset_soloOk.of_tables hsst hgsu fun sc =>
    iff_of_false (not_peerScope_of_cleared hl sc) (not_peerScope_of_cleared rfl sc)

/-- A station reset evaluates the solo state from the tables it keeps and the lanes it has forgotten (R33). -/
theorem stationResetTaken_soloOk (straps : BitVec 4) (s : State) : SoloOk (stationResetTaken straps s) := by
  have evaluated : SoloOk (stationResetBlocks straps s) := evalSolo_soloOk _
  exact evaluated.of_blocks (by simp [stationResetTaken]) (by simp [stationResetTaken])

/-! ### Changes (R40, R46, R76) -/

/-- Storing a record with the same solo settings keeps the own scope bits sound. -/
theorem OwnScopesOk.setChannel {s : State} (own : OwnScopesOk s) {c : Chan} {r : ChannelRecord}
    (h : r.soloPart = (channelAt s c).soloPart) : OwnScopesOk (setChannel s c r) :=
  own.congr rfl fun n => by
    rw [channelAt_setChannel]
    split
    · next hn => rw [h, hn]
    · rfl

/-- A write to Solo Safe moves the gating alone (R86). -/
theorem SoloOk.writeSoloSafe {s : State} (i : SoloOk s) (c : Chan) (w : Word) : SoloOk (writeSoloSafe c w s) := by
  obtain ⟨own, link, -⟩ := (soloOk_iff s).mp i
  exact evalGating_soloOk (own.setChannel rfl) (link.congr rfl (peerScope_congr rfl rfl))

/-- A write that leaves the record's solo settings and evaluates nothing keeps the solo state sound. -/
theorem SoloOk.applyWrite_other {s : State} (i : SoloOk s) (c : Chan) (id : BitVec 16) (w : Word)
    (hg : (applyWrite c id w s).gsu = s.gsu)
    (hr : ∀ r, (writtenRecord (paramOf id) w r).soloPart = r.soloPart ∧
      (writtenRecord (paramOf id) w r).soloSafe = r.soloSafe) : SoloOk (applyWrite c id w s) := by
  refine i.congr hg (fun n => ?_) (fun n => ?_) (peerScope_congr (by simp) (by simp))
  all_goals
    rw [channelAt_applyWrite]
    split
    · next hn => subst hn; simp only [hr]
    · rfl

theorem SoloOk.applyWrite {s : State} (i : SoloOk s) (c : Chan) (id : BitVec 16) (w : Word) :
    SoloOk (applyWrite c id w s) := by
  have other := i.applyWrite_other c id w
  unfold Machine.applyWrite at other ⊢
  cases hq : paramOf id
  case solo | scope | groups => exact evalSolo_soloOk _
  case soloSafe => exact i.writeSoloSafe c w
  all_goals
    rw [hq] at other
    exact other (by simp) fun r => ⟨rfl, rfl⟩

theorem SoloOk.applyGroupLevel {s : State} (i : SoloOk s) (gf m : Word) : SoloOk (applyGroupLevel gf m s) := by
  unfold Machine.applyGroupLevel
  split
  · exact i
  · exact evalSolo_soloOk _

theorem SoloOk.applyChange {s : State} (i : SoloOk s) (x : LaneChange) : SoloOk (applyChange s x) := by
  unfold Machine.applyChange
  split
  · exact i.applyWrite _ _ _
  · exact i.applyGroupLevel _ _

theorem SoloOk.applyChanges {s : State} (i : SoloOk s) (cs : List LaneChange) : SoloOk (cs.foldl Machine.applyChange s) := by
  induction cs generalizing s with
  | nil => exact i
  | cons x cs ih => exact ih (i.applyChange x)

theorem SoloOk.applyDueChanges {s : State} (i : SoloOk s) : SoloOk (applyDueChanges s) := by
  unfold Machine.applyDueChanges
  refine SoloOk.applyChanges ?_ _
  exact i.of_blocks ⟨rfl, rfl⟩ ⟨rfl, rfl⟩

/-! ### A strobe -/

/-- The end of Isolated evaluates the link scope state over the cleared Lane Table (R32). -/
theorem SoloOk.leaveIsolated {s : State} (i : SoloOk s) : SoloOk (leaveIsolated s) := by
  obtain ⟨own, -, -⟩ := (soloOk_iff s).mp i
  have held : ∀ t, OwnScopesOk t → SoloOk (holdRamps (evalLinkScopes t)) :=
    fun t h => (evalLinkScopes_soloOk h).of_blocks (by simp) (by simp)
  have cleared : SoloOk (isolationCleared s) := held _ (own.congr rfl fun _ => rfl)
  rw [leaveIsolated_eq]
  exact cleared.of_blocks (by simp) (by simp)

theorem SoloOk.stationAtStrobe {s : State} (i : SoloOk s) : SoloOk (stationAtStrobe s) := by
  unfold Machine.stationAtStrobe
  split
  · exact i.leaveIsolated.of_blocks ⟨rfl, rfl⟩ ⟨rfl, rfl⟩
  · exact i.of_blocks ⟨rfl, rfl⟩ ⟨rfl, rfl⟩
  · split
    · exact i.of_blocks (by simp) (by simp)
    · exact i
  all_goals exact i

theorem SoloOk.changesAtStrobe {s : State} (i : SoloOk s) (e : StrobeEvent) : SoloOk (changesAtStrobe e s) := by
  have flushed : SoloOk (if flushes e then flushQueue s else s) := by
    split
    · exact i.of_blocks ⟨rfl, rfl⟩ ⟨rfl, rfl⟩
    · exact i
  unfold Machine.changesAtStrobe
  dsimp only
  generalize (if flushes e then flushQueue s else s) = r at flushed ⊢
  split
  · exact flushed.applyDueChanges
  · exact flushed

theorem SoloOk.strobeTaken {s : State} (i : SoloOk s) (p : Position) (inputs : Table 48 Sample) :
    SoloOk (strobeTaken p inputs s) := by
  by_cases hb : s.stc.station = .booting
  · rw [strobeTaken_booting p inputs hb]
    exact i.of_blocks (by simp) (by simp [strobeInBooting_lif])
  · have received : SoloOk (takeStrobe p s) := i.of_blocks (by simp) (by simp)
    have closed : SoloOk (closeFrame (Machine.stationAtStrobe (takeStrobe p s))) :=
      received.stationAtStrobe.of_blocks (by simp) (by simp)
    have formed : SoloOk (formedAtStrobe p inputs s) :=
      (closed.changesAtStrobe (classify s.rfr p)).of_blocks (by simp [formedAtStrobe]) (by simp [formedAtStrobe])
    rw [strobeTaken_eq p inputs s hb]
    exact formed.of_blocks (by simp) (by simp [openByStation_lanes])

/-! ### The own-index lane's arrival -/

theorem SoloOk.enterSilent {s : State} (i : SoloOk s) (cause : StopCause) : SoloOk (enterSilent cause s) :=
  i.of_blocks (by simp) (by simp)

theorem SoloOk.decideListening {s : State} (i : SoloOk s) : SoloOk (decideListening s) := by
  unfold Machine.decideListening
  split
  · exact (i.setOwnLane _).of_blocks ⟨rfl, rfl⟩ ⟨rfl, rfl⟩
  · exact i.enterSilent _
  · exact i.enterSilent _

theorem SoloOk.watchedArrival {s : State} (i : SoloOk s) (v : Option (Table 54 Word)) : SoloOk (watchedArrival v s) := by
  unfold Machine.watchedArrival
  dsimp only
  split
  · exact (i.setOwnLane _).decideListening
  · exact i.setOwnLane _

theorem SoloOk.cleanReadback {s : State} (i : SoloOk s) : SoloOk (cleanReadback s) := by
  refine i.of_blocks (by simp) ⟨by simp, ?_⟩
  unfold Machine.cleanReadback
  dsimp only
  split <;> rfl

theorem SoloOk.mismatchReadback {s : State} (i : SoloOk s) : SoloOk (mismatchReadback s) := by
  unfold Machine.mismatchReadback
  dsimp only
  split
  · exact SoloOk.enterSilent (i.of_blocks ⟨rfl, rfl⟩ ⟨rfl, rfl⟩) _
  · exact i.of_blocks ⟨rfl, rfl⟩ ⟨rfl, rfl⟩

/-! ### A peer lane's arrival -/

/-- Only a Contributing arrival has its contents taken (R13, R14). -/
theorem presenceStep_contentsTaken {r : LaneRecord} {k : ArrivalKind} (h : (presenceStep r k).2 = .contentsTaken) :
    k = .contributing := by
  cases k with
  | contributing => rfl
  | restarted => cases hp : r.presence <;> simp [presenceStep, hp] at h
  | invalid =>
    cases hp : r.presence with
    | absent | joining => simp [presenceStep, hp] at h
    | present =>
      by_cases hc : r.invalidRun < 15
      · rw [presenceStep_present_missed hp hc] at h; cases h
      · rw [presenceStep_present_lost hp (by omega)] at h; cases h

/-- An arrival whose contents are taken has words (R5). -/
theorem words_of_contentsTaken {r : LaneRecord} {v : Option (Table 54 Word)}
    (h : (presenceStep r (arrivalKind v)).2 = .contentsTaken) : ∃ ws, v = some ws := by
  have kind := presenceStep_contentsTaken h
  cases v with
  | none => cases kind
  | some ws => exact ⟨ws, rfl⟩

section
variable {s : State} (own : OwnScopesOk s) (lane : LaneIx)
include own

/-- A lane's leaving Present evaluates the link scope state anew (R17, R84). -/
theorem OwnScopesOk.leavePresent : SoloOk (leavePresent lane s) := by
  have linked : SoloOk (evalLinkScopes (laneDropped lane s)) := evalLinkScopes_soloOk (own.congr rfl fun _ => rfl)
  rw [leavePresent_eq]
  exact linked.of_blocks (by simp) (by simp)

theorem OwnScopesOk.losePeer : SoloOk (losePeer lane s) :=
  (own.leavePresent lane).of_blocks (by simp [Machine.losePeer]) (by simp [Machine.losePeer])

/-- Taking contents evaluates the link scope state over the stored header (R15, R84), before the messages. -/
theorem OwnScopesOk.takeContents (k : KeptByMessages SoloOk) (straps : BitVec 4) (ws : Table 54 Word) :
    SoloOk (takeContents lane straps ws s) := by
  have linked : SoloOk (evalLinkScopes (storeHeader lane ws s)) := evalLinkScopes_soloOk (own.congr rfl fun _ => rfl)
  exact k.takeSlots _ _ _ _ _ (linked.of_blocks (by simp) (by simp))

end

/-- The arrival of a peer lane keeps the solo state sound, where its messages do: a lane that enters, leaves or stays Present
with new contents has the link scope state evaluated, and every other one carries what it carried (R13 to R17, R84). -/
theorem SoloOk.peerArrival (k : KeptByMessages SoloOk) {s : State} (i : SoloOk s) (lane : LaneIx) (straps : BitVec 4)
    (v : Option (Table 54 Word)) : SoloOk (peerArrival lane straps v s) := by
  obtain ⟨own, -, -⟩ := (soloOk_iff s).mp i
  have stored : ∀ r, OwnScopesOk (Machine.setLane s lane r) := fun r => own.congr rfl fun _ => rfl
  have unheard : ∀ r : LaneRecord, (laneAt s lane).presence ≠ .present → r.presence ≠ .present →
      SoloOk (Machine.setLane s lane r) := fun r hs hr => i.setLane fun _ sc => by simp [hs, hr]
  have contents : ∀ r, (∃ ws, v = some ws) →
      SoloOk (actOnPresence lane straps v .contentsTaken (Machine.setLane s lane r)) := by
    rintro r ⟨ws, rfl⟩
    exact (stored r).takeContents lane k straps ws
  have words : (presenceStep (laneAt s lane) (arrivalKind v)).2 = .contentsTaken → ∃ ws, v = some ws :=
    words_of_contentsTaken
  unfold Machine.peerArrival
  dsimp only
  revert words
  refine presenceStep_cases (P := fun out => (out.2 = .contentsTaken → ∃ ws, v = some ws) →
    SoloOk (actOnPresence lane straps v out.2 (Machine.setLane s lane out.1))) _ _
    (fun hp _ => unheard _ hp nofun) (fun hp _ => unheard _ (by simp [hp]) nofun)
    (fun hp _ => unheard _ (by simp [hp]) (by simp [hp])) (fun _ _ words => contents _ (words rfl))
    (fun _ words => contents _ (words rfl)) (fun _ _ _ => ?missed) (fun _ _ => (stored _).leavePresent lane)
    (fun _ _ => (stored _).losePeer lane)
  case missed =>
    have same : SoloOk (Machine.setLane s lane { laneAt s lane with invalidRun := (laneAt s lane).invalidRun + 1 }) :=
      i.setLane fun _ _ => Iff.rfl
    exact same.of_blocks (by simp [actOnPresence]) (by simp [actOnPresence])

/-! ### Every step -/

/-- Every message keeps the solo state sound: a Station Reset evaluates it anew, no other message reaches it. -/
theorem soloOk_keptByMessages : KeptByMessages SoloOk where
  fault _ i := i.of_blocks (by simp) (by simp)
  change _ _ _ _ _ i := i.of_blocks (by simp) (by simp)
  bind _ _ _ _ _ _ i := i.of_blocks (by simp) (by simp)
  query _ _ i := i.of_blocks (by simp) (by simp)
  watch _ _ _ _ _ i := i.of_blocks (by simp) (by simp)
  unwatch _ _ i := i.of_blocks (by simp) (by simp)
  rearm _ _ i := i.of_blocks (by simp) (by simp)
  clear _ _ i := i.of_blocks (by simp) (by simp)
  announce _ i := i.of_blocks (by simp) (by simp)
  reset straps s _ _ := stationResetTaken_soloOk straps s
  reassembly _ _ _ i := i.of_blocks (by simp) (by simp)

/-- Every operation of a step keeps the solo state sound. -/
theorem soloOk_keptBySteps : KeptBySteps SoloOk where
  toKeptByMessages := soloOk_keptByMessages
  queue _ _ i := i.of_blocks ⟨rfl, rfl⟩ ⟨rfl, rfl⟩
  powerOn _ _ _ := soloOk_of_powerOn ⟨rfl, rfl⟩ rfl
  pinAsserted s i := i.of_blocks (by simp) (by simp [pinAsserted])
  pinReset _ _ _ := soloOk_of_powerOn ⟨rfl, rfl⟩ rfl
  boot _ _ _ i := i.of_blocks (by simp) (by simp)
  strobe p inputs _ i := i.strobeTaken p inputs
  loss s i := by
    refine i.of_blocks (by simp) ⟨by simp, ?_⟩
    unfold lossTaken
    split <;> simp [lossAtBlocks_lif]
  peer lane straps v _ _ i := i.peerArrival soloOk_keptByMessages lane straps v
  watched v _ _ i := i.watchedArrival v
  clean _ i := i.cleanReadback
  mismatch _ _ i := i.mismatchReadback
  decide _ _ i := i.decideListening
  lock _ _ _ i := i.of_blocks (by simp) (by simp)
  inputFault _ i := i.of_blocks (by simp) (by simp)
  window _ i := i.of_blocks (by simp) (by simp)
  ramp r s i := by
    unfold applyRamp
    split <;> split
    · exact i.of_blocks (by simp) (by simp)
    · exact i
    · exact i.of_blocks ⟨rfl, rfl⟩ ⟨rfl, rfl⟩
    · exact i
  close _ _ i := i.of_blocks (by simp) (by simp)

/-- Settles O42: the soundness of the solo state is kept by each operation a step can be. -/
theorem stepKeepsSoloOk : Obligations.StepKeepsSoloOk :=
  fun s t i e => soloOk_keptBySteps.step s t i e

end Sys2Proof.Machine
end

section
/-! What the settled alignment state and the delays read, and what brings them about: a settling, the resets and the taking of
the boot settings (R92 to R103, R110, R111, R124). -/

namespace Sys2Proof.Machine

/-! ### The delays through a ramp (R102, R103, R117, R121, R123) -/

/-- Each item of the set comes into force as it stood pending (R117). -/
theorem effectiveDelay_applyPending (p : ChannelPath) (k : SendIx) :
    effectiveDelay (applyPending p) k = effectiveDelay p k := by
  simp [effectiveDelay, applyPending, PendingSet.empty]

theorem effectiveDelay_stepPath (p : ChannelPath) (k : SendIx) : effectiveDelay (stepPath p) k = effectiveDelay p k := by
  unfold stepPath
  split
  · exact effectiveDelay_applyPending p k
  · rfl

theorem effectiveDelay_rampedPath (entering : Bool) (p : ChannelPath) (k : SendIx) :
    effectiveDelay (rampedPath entering p) k = effectiveDelay p k := by
  cases entering with
  | true => exact effectiveDelay_applyPending p k
  | false => exact effectiveDelay_stepPath p k

/-- A slot's ramp keeps its bus and the delay it has once its item is applied. -/
theorem stepSlot_delay (p : SlotPath) :
    (stepSlot p).bus = p.bus ∧ effectiveSlotDelay (stepSlot p) = effectiveSlotDelay p := by
  unfold stepSlot
  split <;> exact ⟨rfl, rfl⟩

theorem rampedSlot_delay (entering : Bool) (p : SlotPath) :
    (rampedSlot entering p).bus = p.bus ∧ effectiveSlotDelay (rampedSlot entering p) = effectiveSlotDelay p := by
  cases entering with
  | true => exact ⟨rfl, rfl⟩
  | false => exact stepSlot_delay p

/-! ### What the alignment state and the delays read -/

/-- Each send and each slot would have the same delay once its pending set were applied, and each slot carries the same bus. -/
def SameDelays (s t : State) : Prop :=
  (∀ c k, effectiveDelay (pathAt t c) k = effectiveDelay (pathAt s c) k) ∧
  ∀ o, (t.mxd.slots.get o).bus = (s.mxd.slots.get o).bus ∧
    effectiveSlotDelay (t.mxd.slots.get o) = effectiveSlotDelay (s.mxd.slots.get o)

/-- The states agree on all that `AlignmentOk` and `DelaysOk` speak of. -/
def SameAlignment (s t : State) : Prop :=
  SameRouting s t ∧ t.alu = s.alu ∧ SameDelays s t

section
variable {s t : State}

theorem SameDelays.of_paths (h : t.mxd.channels = s.mxd.channels ∧ t.mxd.slots = s.mxd.slots) : SameDelays s t := by
  obtain ⟨hchannels, hslots⟩ := h
  simp [SameDelays, pathAt, hchannels, hslots]

theorem SameAlignment.of_blocks
    (routing : t.stc.nodeId = s.stc.nodeId ∧ t.sst = s.sst ∧ t.lif.lanes = s.lif.lanes) (halu : t.alu = s.alu)
    (paths : t.mxd.channels = s.mxd.channels ∧ t.mxd.slots = s.mxd.slots) : SameAlignment s t := by
  obtain ⟨hnode, hsst, hlanes⟩ := routing
  exact ⟨.of_tables hnode hsst hlanes, halu, .of_paths paths⟩

theorem SameAlignment.refl (s : State) : SameAlignment s s :=
  .of_blocks ⟨rfl, rfl, rfl⟩ rfl ⟨rfl, rfl⟩

/-- A lane record that is Present where the one before it was, with the same needs, changes no routing; nor does the own-index
record (R11, R95). -/
theorem SameAlignment.setLane {lane : LaneIx} {r : LaneRecord}
    (h : lane ≠ s.stc.nodeId → (r.presence = .present ↔ (laneAt s lane).presence = .present) ∧
      ((laneAt s lane).presence = .present → r.needs = (laneAt s lane).needs)) :
    SameAlignment s (setLane s lane r) := by
  refine ⟨⟨rfl, fun _ => ⟨rfl, fun _ => rfl⟩, fun n hn => ?_⟩, rfl, .of_paths ⟨rfl, rfl⟩⟩
  by_cases hl : n = lane
  · subst hl
    rw [laneAt_setLane_self]
    exact h hn
  · rw [laneAt_setLane_ne s hl]
    exact ⟨Iff.rfl, fun _ => rfl⟩

theorem SameAlignment.setOwnLane (r : LaneRecord) : SameAlignment s (Machine.setLane s s.stc.nodeId r) :=
  .setLane fun hn => absurd rfl hn

theorem DelaysOk.congr_alignment (h : SameAlignment s t) (i : DelaysOk s) : DelaysOk t := by
  obtain ⟨⟨-, hchannels, -⟩, halu, hdelays, hslots⟩ := h
  obtain ⟨-, bus⟩ := forall_and.mp hchannels
  obtain ⟨slotBus, slotDelay⟩ := forall_and.mp hslots
  simpa only [DelaysOk, bus, hdelays, alignAt_congr halu, halu, slotBus, slotDelay] using i

/-- With the channels as they were, only the slots' delays matter. -/
theorem DelaysOk.of_slots (i : DelaysOk s) (hsst : t.sst = s.sst) (halu : t.alu = s.alu)
    (hchannels : t.mxd.channels = s.mxd.channels)
    (slots : ∀ o b, (t.mxd.slots.get o).bus = some b →
      (effectiveSlotDelay (t.mxd.slots.get o)).val + (t.alu.aligned.get b).val = 14) : DelaysOk t := by
  obtain ⟨unassigned, assigned, -⟩ := i
  have path : ∀ c, pathAt t c = pathAt s c := fun c => by rw [pathAt, hchannels]; rfl
  refine ⟨fun c k h => ?_, fun c k b d hb hd => ?_, slots⟩
  · rw [path]
    exact unassigned c k (by rwa [channelAt_congr hsst] at h)
  · rw [path, halu]
    exact assigned c k b d (by rwa [channelAt_congr hsst] at hb) (by rwa [alignAt_congr halu] at hd)

/-! ### Latches and sources (R92, R106) -/

theorem LatchesAreReturns.congr (i : LatchesAreReturns s) (hs : ∀ c, (channelAt t c).source = (channelAt s c).source)
    (ha : t.alu = s.alu) : LatchesAreReturns t := by
  simpa only [LatchesAreReturns, hs, alignAt_congr ha] using i

theorem LatchesAreReturns.of_tables (i : LatchesAreReturns s) (hs : t.sst = s.sst) (ha : t.alu = s.alu) :
    LatchesAreReturns t :=
  i.congr (fun c => by rw [channelAt_congr hs]) ha

/-- An evaluation latches a return alone (R51, R92), so only the latches of the other channels matter. -/
theorem latchesAreReturns_evaluateChannel {c : Chan}
    (others : ∀ n, n ≠ c → alignAt s n = .overdepth → ∃ b, (channelAt s n).source = .busReturn b) :
    LatchesAreReturns (evaluateChannel c s) := by
  intro n hn
  rw [channelAt_congr (s := s) (by simp)]
  rw [evaluateChannel, alignAt_setAlign] at hn
  split at hn
  · next hc =>
    subst hc
    by_contra hne
    rw [evaluate_other fun b hb => hne ⟨b, hb⟩] at hn
    cases hn
  · next hc => exact others n hc hn

/-- A write to Source settles from a state in which returns alone are latched (R51). -/
theorem LatchesAreReturns.sourceEvaluated (i : LatchesAreReturns s) (c : Chan) (w : Word) :
    LatchesAreReturns (sourceEvaluated c w s) :=
  latchesAreReturns_evaluateChannel fun n hn latched => by
    rw [channelAt_setChannel, if_neg hn]
    exact i n latched

/-- A station reset keeps every latch and no other depth (R111). -/
theorem LatchesAreReturns.stationResetBlocks (i : LatchesAreReturns s) (straps : BitVec 4) :
    LatchesAreReturns (stationResetBlocks straps s) := by
  intro c latched
  rw [channelAt_congr (s := s) (by simp)]
  apply i c
  have align : alignAt (Machine.stationResetBlocks straps s) c = (stationResetAlu s.alu).channels.get c := by
    simp [Machine.stationResetBlocks, alignAt]
  rw [align, stationResetAlu, Table.get_make] at latched
  unfold alignAt
  split at latched
  · assumption
  · cases latched

end

/-! ### What brings each delay to its target (R101 to R103, R110, R111, R124) -/

/-- In a settled state D is at least the depth of each Normal channel that sends to the bus (R93, R95). -/
theorem AlignmentOk.depth_le {s : State} (i : AlignmentOk s) {c : Chan} {k : SendIx} {b : Bus} {d : Depth}
    (hb : ((channelAt s c).sends.get k).bus = some b) (hd : alignAt s c = .normal d) : d ≤ s.alu.aligned.get b := by
  obtain ⟨-, own, heard⟩ := i
  obtain ⟨e, he, hle⟩ := (own b).2 d ⟨c, k, hd, hb⟩
  exact hle.trans ((heard b).1 e (.inl he))

/-- Where every send stands at its delay target and every slot at its own, so do all delays (R101, R103). -/
theorem delaysOk_of_targets {s t : State} (i : AlignmentOk s) (hsst : t.sst = s.sst) (halu : t.alu = s.alu)
    (sends : ∀ c k, effectiveDelay (pathAt t c) k = delayTarget s c k)
    (slots : ∀ o b, (t.mxd.slots.get o).bus = some b → effectiveSlotDelay (t.mxd.slots.get o) = slotTarget s b) :
    DelaysOk t := by
  refine ⟨fun c k h => ?unassigned, fun c k b d hb hd => ?assigned, fun o b h => ?slot⟩
  case unassigned =>
    rw [channelAt_congr hsst] at h
    rw [sends, delayTarget, h]
  case assigned =>
    rw [channelAt_congr hsst] at hb
    rw [alignAt_congr halu] at hd
    rw [sends, halu, delayTarget, hb, hd]
    exact depthDiff_add _ _ (i.depth_le hb hd)
  case slot =>
    rw [slots o b h, halu]
    exact slotTarget_add s b

/-- A settling leaves each send and slot at its target, in force or pending (R98, R102, R103). -/
theorem delaysOk_settle {s : State} (hl : LatchesAreReturns s) : DelaysOk (settle s) := by
  refine delaysOk_of_targets (alignmentOk_settled s hl) (by simp) (settle_alu s) (fun c k => ?_) (fun o b h => ?_)
  · rw [pathAt_settle]
    exact effectiveDelay_postChannelDelays _ c k
  · rw [slot_settle] at h ⊢
    refine effectiveSlotDelay_postSlot _ _ b ?_
    unfold postSlot at h
    split at h
    · exact h
    · split at h <;> exact h

/-- A slot as a reset sets it stands at its target in force (R103, R110, R111). -/
theorem effectiveSlotDelay_resetSlot {s : State} {p : SlotPath} {b : Bus} (h : (resetSlot s p).bus = some b) :
    effectiveSlotDelay (resetSlot s p) = slotTarget s b := by
  have bus : p.bus = some b := h
  simp only [effectiveSlotDelay, resetSlot, bus, Option.getD_none]

/-- A slot as the boot settings set it stands at its target in force (R103, R124). -/
theorem effectiveSlotDelay_bootSlot {s : State} {a : Option Bus} {b : Bus} (h : (bootSlot s a).bus = some b) :
    effectiveSlotDelay (bootSlot s a) = slotTarget s b := by
  have bus : a = some b := h
  subst bus
  rfl

/-! ### Resets and the boot settings (R33, R110, R111, R124) -/

/-- With the settings and the Alignment Unit at their power-on values and no lane heard, the alignment state is settled,
whatever the node ID (R110). -/
theorem alignmentOk_of_powerOn {t : State} (hsst : t.sst = State.reset.sst) (halu : t.alu = State.reset.alu)
    (hlanes : t.lif.lanes = State.reset.lif.lanes) : AlignmentOk t := by
  obtain ⟨depths, own, -⟩ := reset_alignmentOk
  have channel := channelAt_congr hsst
  have align := alignAt_congr halu
  have cleared : ∀ n, laneAt t n = LaneRecord.cleared := fun n => by rw [laneAt, hlanes]; exact reset_laneAt n
  have noNeed : ∀ b d, ¬ NeedHeard t b d := by
    simp [NeedHeard, halu, reset_ownNeed, cleared, LaneRecord.cleared]
  refine ⟨fun c => ?_, fun b => ?_, fun b => ⟨fun d h => absurd h (noNeed b d), .inr ⟨?_, noNeed b⟩⟩⟩
  · simpa only [ChannelDepthOk, channel, align, halu] using depths c
  · simpa only [SendsAtDepth, channel, align, halu] using own b
  · rw [halu, reset_aligned]

theorem delaysOk_powerOnReset (straps : BitVec 4) (s : State) : DelaysOk (powerOnReset straps s) :=
  reset_delaysOk.congr rfl rfl rfl

/-- A pin reset sets the delay of each slot that stands assigned at its target (R110). -/
theorem delaysOk_pinResetTaken (straps : BitVec 4) (s : State) : DelaysOk (pinResetTaken straps s) := by
  refine (delaysOk_powerOnReset straps s).of_slots rfl rfl rfl fun o b h => ?_
  have slot : (pinResetTaken straps s).mxd.slots.get o = resetSlot (powerOnReset straps s) (s.mxd.slots.get o) :=
    Table.get_make _ o
  rw [slot] at h ⊢
  rw [effectiveSlotDelay_resetSlot h]
  exact slotTarget_add _ b

theorem alignmentOk_stationResetTaken (straps : BitVec 4) {s : State} (hl : LatchesAreReturns s) :
    AlignmentOk (stationResetTaken straps s) :=
  alignmentOk_congr (.of_tables (by simp [stationResetTaken]) (by simp) (by simp [stationResetTaken]))
    (by simp [stationResetTaken]) (alignmentOk_settled _ (hl.stationResetBlocks straps))

/-- A station reset sets every target in force (R111). -/
theorem delaysOk_stationResetTaken (straps : BitVec 4) {s : State} (hl : LatchesAreReturns s) :
    DelaysOk (stationResetTaken straps s) := by
  obtain ⟨-, -, -, -, -, hsst, -⟩ := stationResetSettled_blocks straps s
  obtain ⟨-, -, -, hsst', -, halu, -⟩ := stationResetTaken_blocks straps s
  refine delaysOk_of_targets (s := stationResetSettled straps s) (alignmentOk_settled _ (hl.stationResetBlocks straps))
    (hsst'.trans hsst.symm) halu (fun c k => ?_) (fun o b h => ?_)
  · rw [pathAt_stationResetTaken]
    simp [effectiveDelay, resetPath, PendingSet.empty]
  · rw [slot_stationResetTaken] at h ⊢
    exact effectiveSlotDelay_resetSlot h

theorem DelaysOk.takeSettings {s : State} (i : DelaysOk s) (b : BootSettings) : DelaysOk (takeSettings b s) := by
  refine i.of_slots (by simp) (by simp) rfl fun o bus h => ?_
  have slot : (Machine.takeSettings b s).mxd.slots.get o =
      bootSlot (s.setStc { s.stc with boot := b, stripBase := stripBaseOf b s.stc.nodeId }) (b.slots.get o) :=
    Table.get_make _ o
  rw [slot] at h ⊢
  rw [effectiveSlotDelay_bootSlot h]
  exact slotTarget_add _ bus

end Sys2Proof.Machine
end

section
/-! What a settling brings about is kept by every step: each operation leaves what the alignment state and the delays read, ends
in a settling, or is a reset or the taking of the boot settings (R96, R98, R103, R110 to R112, R124). -/

namespace Sys2Proof.Machine

/-! ### Properties that a settling brings about -/

/-- A property of the alignment state and the delays that a settling brings about and the resets and the boot settings set up.
Every other operation leaves what it reads, or ends in a settling. -/
structure BroughtBySettling (P : State → Prop) : Prop where
  latches : ∀ {s}, P s → LatchesAreReturns s
  congr : ∀ {s t}, SameAlignment s t → P s → P t
  settle : ∀ {s}, LatchesAreReturns s → P (settle s)
  settings : ∀ b {s}, P s → P (takeSettings b s)
  powerOn : ∀ straps s, P (powerOnReset straps s)
  pinReset : ∀ straps s, P (pinResetTaken straps s)
  stationReset : ∀ straps {s}, LatchesAreReturns s → P (stationResetTaken straps s)

/-- The settled alignment state (R92, R93, R95). -/
theorem alignmentOk_broughtBySettling : BroughtBySettling AlignmentOk where
  latches i := i.latches
  congr := fun ⟨routing, halu, _⟩ i => alignmentOk_congr routing halu i
  settle hl := alignmentOk_settle _ hl
  settings _ _ i := alignmentOk_congr (.of_tables (by simp) (by simp) (by simp)) (by simp) i
  powerOn _ _ := alignmentOk_of_powerOn rfl rfl rfl
  pinReset _ _ := alignmentOk_of_powerOn rfl rfl rfl
  stationReset straps _ hl := alignmentOk_stationResetTaken straps hl

/-- The settled alignment state with the delays at the targets it gives (R101 to R103). -/
theorem delaysAtTargets_broughtBySettling : BroughtBySettling fun s => AlignmentOk s ∧ DelaysOk s where
  latches := fun ⟨i, _⟩ => i.latches
  congr := fun same ⟨i, j⟩ => ⟨alignmentOk_broughtBySettling.congr same i, j.congr_alignment same⟩
  settle hl := ⟨alignmentOk_settle _ hl, delaysOk_settle hl⟩
  settings := fun b _ ⟨i, j⟩ => ⟨alignmentOk_broughtBySettling.settings b i, j.takeSettings b⟩
  powerOn straps s := ⟨alignmentOk_broughtBySettling.powerOn straps s, delaysOk_powerOnReset straps s⟩
  pinReset straps s := ⟨alignmentOk_broughtBySettling.pinReset straps s, delaysOk_pinResetTaken straps s⟩
  stationReset straps _ hl := ⟨alignmentOk_stationResetTaken straps hl, delaysOk_stationResetTaken straps hl⟩

/-! ### Changes (R40, R44, R50, R51, R76) -/

/-- A write to a parameter other than Source and Send Bus leaves the record's source and buses. -/
theorem writtenRecord_routing {q : Param} (hsource : q ≠ .source) (hbus : ∀ k, q ≠ .sendBus k) (w : Word)
    (r : ChannelRecord) : (writtenRecord q w r).source = r.source ∧
      ∀ k, ((writtenRecord q w r).sends.get k).bus = (r.sends.get k).bus := by
  have put : ∀ (d : SendSettings) (j k : SendIx), d.bus = (r.sends.get j).bus →
      ((r.sends.put j d).get k).bus = (r.sends.get k).bus := by
    intro d j k h
    rw [Table.get_put]
    split
    · next hk => rw [h, hk]
    · rfl
  cases q with
  | source => exact absurd rfl hsource
  | sendBus k => exact absurd rfl (hbus k)
  | sendLevel j | sendSwitches j => exact ⟨rfl, fun k => put _ j k rfl⟩
  | _ => exact ⟨rfl, fun _ => rfl⟩

theorem sameAlignment_applyWrite {id : BitVec 16} (hsource : paramOf id ≠ .source) (hbus : ∀ k, paramOf id ≠ .sendBus k)
    (c : Chan) (w : Word) (s : State) : SameAlignment s (applyWrite c id w s) := by
  obtain ⟨hmxd, halu⟩ := applyWrite_quiet hsource hbus c w s
  have lane : ∀ n, laneAt (applyWrite c id w s) n = laneAt s n := laneAt_congr (by simp)
  refine ⟨⟨by simp, fun n => ?_, fun n _ => by rw [lane]; exact ⟨Iff.rfl, fun _ => rfl⟩⟩, halu,
    .of_paths (by simp [hmxd])⟩
  rw [channelAt_applyWrite]
  split
  · next hn => rw [hn]; exact writtenRecord_routing hsource hbus w _
  · exact ⟨rfl, fun _ => rfl⟩

/-- Storing a send leaves every channel's source. -/
theorem source_setSend (s : State) (c n : Chan) (k : SendIx) (d : SendSettings) :
    (channelAt (setSend s c k d) n).source = (channelAt s n).source := by
  rw [setSend, channelAt_setChannel]
  split
  · next hn => rw [hn]
  · rfl

/-! ### What else leaves the alignment -/

/-- Forming a frame steps the ramps and the glides: no delay moves but from pending into force (R116, R117, R121). -/
theorem sameAlignment_formFrame (entering : Bool) (inputs : Table 48 Sample) (s : State) :
    SameAlignment s (formFrame entering inputs s) := by
  obtain ⟨path, slot, -⟩ := formFrame_mxd entering inputs s
  refine ⟨.of_tables (by simp) (by simp) (by simp), by simp, fun c k => ?_, fun o => ?_⟩
  · rw [path, effectiveDelay_framePath, effectiveDelay_rampedPath]
  · rw [slot]
    exact rampedSlot_delay entering _

/-- The application of one ramp's pending set moves its delays from pending into force (R117, R123). -/
theorem sameAlignment_applyRamp (r : RampId) (s : State) : SameAlignment s (applyRamp r s) := by
  unfold applyRamp
  split <;> split
  · refine ⟨.of_tables (by simp) (by simp) (by simp), by simp, fun n k => ?_, fun _ => ⟨rfl, rfl⟩⟩
    rw [pathAt, setPath, State.setMxd_mxd, Table.get_put]
    split
    · next hn => rw [hn, effectiveDelay_stepPath]
    · rfl
  · exact .refl s
  · refine ⟨.of_tables rfl rfl rfl, rfl, fun _ _ => rfl, fun n => ?_⟩
    rw [State.setMxd_mxd, Table.get_put]
    split
    · next hn => rw [hn]; exact stepSlot_delay _
    · exact ⟨rfl, rfl⟩
  · exact .refl s

theorem sameAlignment_lossTaken (s : State) : SameAlignment s (lossTaken s) := by
  refine .of_blocks ⟨by simp, by simp, ?_⟩ (by simp) ?_
  all_goals
    unfold lossTaken
    split <;> simp [lossAtBlocks, silenceOutputs, discardTotals]

theorem sameAlignment_decideListening (s : State) : SameAlignment s (decideListening s) := by
  unfold decideListening
  split
  · obtain ⟨routing, -, -⟩ := SameAlignment.setOwnLane (s := s)
      { laneAt s s.stc.nodeId with presence := .absent, validRun := 0, invalidRun := 0 }
    exact ⟨routing, by simp, .of_paths (by simp)⟩
  all_goals exact .of_blocks (by simp) (by simp) (by simp)

theorem sameAlignment_cleanReadback (s : State) : SameAlignment s (cleanReadback s) := by
  refine .of_blocks ⟨by simp, by simp, ?_⟩ (by simp) (by simp)
  unfold cleanReadback
  dsimp only
  split <;> rfl

theorem sameAlignment_mismatchReadback (s : State) : SameAlignment s (mismatchReadback s) := by
  refine .of_blocks ⟨by simp, by simp, ?_⟩ (by simp) (by simp)
  unfold mismatchReadback
  dsimp only
  split <;> rfl

/-- What the arrival of a peer lane can come to: to show a property of the outcome, show it of each case (R12 to R17). -/
theorem peerArrival_cases {P : State → Prop} (lane : LaneIx) (straps : BitVec 4) (v : Option (Table 54 Word)) (s : State)
    (unheard : ∀ r : LaneRecord, (laneAt s lane).presence ≠ .present → r.presence ≠ .present → P (setLane s lane r))
    (taken : ∀ r ws, P (takeContents lane straps ws (setLane s lane r)))
    (missed : ∀ n, P (lostFrame lane (setLane s lane { laneAt s lane with invalidRun := n })))
    (left : ∀ r, P (leavePresent lane (setLane s lane r))) (lost : ∀ r, P (losePeer lane (setLane s lane r))) :
    P (peerArrival lane straps v s) := by
  have contents : ∀ r, (∃ ws, v = some ws) → P (actOnPresence lane straps v .contentsTaken (setLane s lane r)) := by
    rintro r ⟨ws, rfl⟩
    exact taken r ws
  have words : (presenceStep (laneAt s lane) (arrivalKind v)).2 = .contentsTaken → ∃ ws, v = some ws :=
    words_of_contentsTaken
  unfold peerArrival
  dsimp only
  revert words
  exact presenceStep_cases (P := fun out => (out.2 = .contentsTaken → ∃ ws, v = some ws) →
    P (actOnPresence lane straps v out.2 (setLane s lane out.1))) _ _
    (fun hp _ => unheard _ hp nofun) (fun hp _ => unheard _ (by simp [hp]) nofun)
    (fun hp _ => unheard _ (by simp [hp]) (by simp [hp])) (fun _ _ words => contents _ (words rfl))
    (fun _ words => contents _ (words rfl)) (fun _ _ _ => missed _) (fun _ _ => left _) (fun _ _ => lost _)

namespace BroughtBySettling

section
variable {P : State → Prop} (k : BroughtBySettling P) {s : State}
include k

/-- An operation that writes nothing the alignment reads keeps the property. -/
theorem of_blocks {t : State} (h : P s)
    (routing : t.stc.nodeId = s.stc.nodeId ∧ t.sst = s.sst ∧ t.lif.lanes = s.lif.lanes) (halu : t.alu = s.alu)
    (paths : t.mxd.channels = s.mxd.channels ∧ t.mxd.slots = s.mxd.slots) : P t :=
  k.congr (.of_blocks routing halu paths) h

/-- A settling whose settings and alignment state are those of a state with the property brings it about anew, whatever was
heard since (R96). -/
theorem settle_of_tables {t : State} (h : P s) (hsst : t.sst = s.sst) (halu : t.alu = s.alu) : P (Machine.settle t) :=
  k.settle ((k.latches h).of_tables hsst halu)

/-! ### Changes -/

theorem writeSource (h : P s) (c : Chan) (w : Word) : P (writeSource c w s) :=
  k.settle (((k.latches h).sourceEvaluated c w).of_tables (by simp [sourceEvaluated]) (by simp [sourceEvaluated]))

theorem writeSendBus (h : P s) (c : Chan) (j : SendIx) (w : Word) : P (writeSendBus c j w s) := by
  refine k.settle ((k.latches h).congr (fun n => ?_) (by simp))
  exact source_setSend s c n j _

theorem applyWrite (h : P s) (c : Chan) (id : BitVec 16) (w : Word) : P (applyWrite c id w s) := by
  by_cases hsource : paramOf id = .source
  · simpa only [Machine.applyWrite, hsource] using k.writeSource h c w
  · by_cases hbus : ∃ j, paramOf id = .sendBus j
    · obtain ⟨j, hj⟩ := hbus
      simpa only [Machine.applyWrite, hj] using k.writeSendBus h c j w
    · exact k.congr (sameAlignment_applyWrite hsource (fun j hj => hbus ⟨j, hj⟩) c w s) h

theorem applyChange (h : P s) (x : LaneChange) : P (applyChange s x) := by
  unfold Machine.applyChange
  split
  · exact k.applyWrite h _ _ _
  · exact k.of_blocks h (by simp) (by simp) (by simp)

theorem applyChanges (h : P s) (cs : List LaneChange) : P (cs.foldl Machine.applyChange s) := by
  induction cs generalizing s with
  | nil => exact h
  | cons x cs ih => exact ih (k.applyChange h x)

theorem rearmChannel (h : P s) (c : Chan) : P (rearmChannel c s) := by
  unfold Machine.rearmChannel
  split
  · exact k.settle (k.latches h)
  · have evaluated : LatchesAreReturns (evaluateChannel c s) :=
      latchesAreReturns_evaluateChannel fun n _ latched => k.latches h n latched
    exact k.settle (evaluated.of_tables (by simp) (by simp))

/-! ### A strobe -/

theorem stationAtStrobe (h : P s) : P (stationAtStrobe s) := by
  unfold Machine.stationAtStrobe
  split
  · have ended : P (leaveIsolated s) := k.settle_of_tables (t := isolationCleared s) h rfl rfl
    exact k.of_blocks ended ⟨rfl, rfl, rfl⟩ rfl ⟨rfl, rfl⟩
  · exact k.of_blocks h ⟨rfl, rfl, rfl⟩ rfl ⟨rfl, rfl⟩
  · split
    · exact k.of_blocks h (by simp) (by simp) (by simp)
    · exact h
  all_goals exact h

theorem changesAtStrobe (h : P s) (e : StrobeEvent) : P (changesAtStrobe e s) := by
  have flushed : P (if flushes e then flushQueue s else s) := by
    split
    · exact k.of_blocks h (by simp) (by simp) (by simp)
    · exact h
  unfold Machine.changesAtStrobe
  dsimp only
  generalize (if flushes e then flushQueue s else s) = r at flushed ⊢
  split
  · unfold applyDueChanges
    refine k.applyChanges ?_ _
    exact k.of_blocks flushed ⟨rfl, rfl, rfl⟩ rfl ⟨rfl, rfl⟩
  · exact flushed

theorem strobeTaken (h : P s) (p : Position) (inputs : Table 48 Sample) : P (strobeTaken p inputs s) := by
  have received : P (takeStrobe p s) := k.of_blocks h (by simp) (by simp) (by simp)
  by_cases hb : s.stc.station = .booting
  · rw [strobeTaken_booting p inputs hb]
    exact k.of_blocks received (by simp [strobeInBooting_lif]) (by simp) (by simp)
  · have closed : P (closeFrame (Machine.stationAtStrobe (takeStrobe p s))) :=
      k.of_blocks (k.stationAtStrobe received) (by simp) (by simp) (closeFrame_paths _)
    have formed : P (formedAtStrobe p inputs s) :=
      k.congr (sameAlignment_formFrame _ _ _) (k.changesAtStrobe closed (classify s.rfr p))
    rw [strobeTaken_eq p inputs s hb]
    exact k.of_blocks formed (by simp [openByStation_lanes]) (by simp) (by simp [openByStation_mxd])

/-! ### Arrivals -/

theorem watchedArrival (h : P s) (v : Option (Table 54 Word)) : P (watchedArrival v s) := by
  have stored : ∀ r, P (setLane s s.stc.nodeId r) := fun r => k.congr (.setOwnLane r) h
  unfold Machine.watchedArrival
  dsimp only
  split
  · exact k.congr (sameAlignment_decideListening _) (stored _)
  · exact stored _

/-- The arrival of a peer lane keeps the property, where its messages do: a lane that enters, leaves or stays Present with new
contents has the alignment state settled, and every other one asks what it asked (R13 to R17, R96). -/
theorem peerArrival (m : KeptByMessages P) (h : P s) (lane : LaneIx) (straps : BitVec 4) (v : Option (Table 54 Word)) :
    P (peerArrival lane straps v s) := by
  have left : ∀ r, P (leavePresent lane (setLane s lane r)) := fun r => k.settle_of_tables h rfl rfl
  refine peerArrival_cases lane straps v s (fun r hs hr => k.congr (.setLane fun _ => by simp [hs, hr]) h)
    (fun r ws => ?taken) (fun n => ?missed) left (fun r => ?lost)
  case taken =>
    have settled : P (Machine.settle (evalLinkScopes (storeHeader lane ws (setLane s lane r)))) :=
      k.settle_of_tables h rfl rfl
    exact m.takeSlots _ _ _ _ _ (k.of_blocks settled (by simp) (by simp) (by simp [addBusWords_mxd]))
  case missed =>
    have counted : P (setLane s lane { laneAt s lane with invalidRun := n }) :=
      k.congr (.setLane fun _ => ⟨Iff.rfl, fun _ => rfl⟩) h
    exact k.of_blocks counted (by simp) (by simp) (by simp)
  case lost => exact k.of_blocks (left r) (by simp [losePeer]) (by simp [losePeer]) (by simp [losePeer])

/-! ### Every step -/

theorem keptByMessages : KeptByMessages P where
  fault _ h := k.of_blocks h (by simp) (by simp) (by simp)
  change _ _ _ _ _ h := k.of_blocks h (by simp) (by simp) (by simp)
  bind _ _ _ _ _ _ h := k.of_blocks h (by simp) (by simp) (by simp)
  query _ _ h := k.of_blocks h (by simp) (by simp) (by simp)
  watch _ _ _ _ _ h := k.of_blocks h (by simp) (by simp) (by simp)
  unwatch _ _ h := k.of_blocks h (by simp) (by simp) (by simp)
  rearm c _ h := k.rearmChannel h c
  clear _ _ h := k.of_blocks h (by simp) (by simp) (by simp)
  announce _ h := k.of_blocks h (by simp) (by simp) (by simp)
  reset straps _ _ h := k.stationReset straps (k.latches h)
  reassembly _ _ _ h := k.of_blocks h (by simp) (by simp) (by simp)

theorem bootReadEnds (h : P s) (o : Option BootSettings) : P (bootReadEnds o s) := by
  cases o with
  | some b => exact k.of_blocks (k.settings b h) (by simp) (by simp) ⟨rfl, rfl⟩
  | none => exact k.of_blocks (k.settings failedSettings h) (by simp) (by simp) (by simp [Machine.bootReadEnds])

/-- A property that a settling brings about is kept by every operation of a step. -/
theorem keptBySteps : KeptBySteps P where
  toKeptByMessages := k.keptByMessages
  queue _ _ h := k.of_blocks h ⟨rfl, rfl, rfl⟩ rfl ⟨rfl, rfl⟩
  powerOn straps s _ := k.powerOn straps s
  pinAsserted _ h := k.of_blocks h (by simp [pinAsserted]) (by simp) (by simp [pinAsserted, silenceOutputs, discardTotals])
  pinReset straps s _ := k.pinReset straps s
  boot o _ _ h := k.bootReadEnds h o
  strobe p inputs _ h := k.strobeTaken h p inputs
  loss s h := k.congr (sameAlignment_lossTaken s) h
  peer lane straps v _ _ h := k.peerArrival k.keptByMessages h lane straps v
  watched v _ _ h := k.watchedArrival h v
  clean s h := k.congr (sameAlignment_cleanReadback s) h
  mismatch s _ h := k.congr (sameAlignment_mismatchReadback s) h
  decide s _ h := k.congr (sameAlignment_decideListening s) h
  lock _ _ _ h := k.of_blocks h (by simp) (by simp) (by simp [setLock])
  inputFault _ h := k.of_blocks h (by simp) (by simp) (by simp)
  window _ h := k.of_blocks h (by simp) (by simp) (by simp)
  ramp r s h := k.congr (sameAlignment_applyRamp r s) h
  close _ _ h := k.of_blocks h (by simp) (by simp) (by simp)

end

end BroughtBySettling

/-! ### The statements -/

/-- Settles O43: a settling brings the alignment state about, so each operation a step can be keeps it. -/
theorem stepKeepsAlignmentOk : Obligations.StepKeepsAlignmentOk :=
  fun s t i e => alignmentOk_broughtBySettling.keptBySteps.step s t i e

/-- Settles O44: a settling brings the delays to their targets together with the alignment state they follow, so each operation
a step can be keeps both. -/
theorem stepKeepsDelaysAtTargets : Obligations.StepKeepsDelaysAtTargets :=
  fun s t i j e => (delaysAtTargets_broughtBySettling.keptBySteps.step s t ⟨i, j⟩ e).2

end Sys2Proof.Machine
end

section
/-! Switch ramps and their items: each operation of a step keeps every ramp's factor in agreement with its state and leaves
items pending in Out and Held alone, and a pending set comes into force whole (R113 to R124). -/

namespace Sys2Proof.Machine

/-! ### A sound ramp (R113, R116, R119) -/

/-- The ramp's factor agrees with its state, and its set is empty while it is Steady or In. -/
def RampSound (r : Ramp) (emptySet : Prop) : Prop :=
  rampOk r ∧ (quiet r → emptySet)

/-- What MXD holds for a channel is sound in its ramp. -/
def PathSound (p : ChannelPath) : Prop :=
  RampSound p.ramp (p.pending = PendingSet.empty)

/-- What MXD holds for an output slot is sound in its ramp. -/
def SlotSound (p : SlotPath) : Prop :=
  RampSound p.ramp (p.pending = none)

theorem rampsOk_iff (s : State) :
    RampsOk s ↔ (∀ c, PathSound (pathAt s c)) ∧ ∀ o, SlotSound (s.mxd.slots.get o) := Iff.rfl

/-- A Held ramp at K = 0 may have items pending (R122). -/
theorem rampSound_held (emptySet : Prop) : RampSound rampHeld emptySet :=
  ⟨rfl, by simp [quiet, rampHeld]⟩

/-- A ramp enters In at K = 1 with its set emptied (R117). -/
theorem rampSound_entersIn {emptySet : Prop} (h : emptySet) : RampSound rampEntersIn emptySet :=
  ⟨⟨Nat.le_refl 1, by decide⟩, fun _ => h⟩

/-- A ramp that an item is posted to goes to Out or stays in Out or Held, so the item may wait (R119). -/
theorem RampSound.turned {r : Ramp} {before : Prop} (i : RampSound r before) (after : Prop) :
    RampSound (turnRamp r) after := by
  obtain ⟨state, k⟩ := r
  obtain ⟨factor, -⟩ := i
  refine ⟨?_, by cases state <;> simp [quiet, turnRamp]⟩
  cases state with
  | steady => exact Nat.le_of_eq factor
  | rampIn =>
    obtain ⟨-, top⟩ := factor
    exact top
  | rampOut | held => exact factor

/-- The step of a ramp leads from Steady or In to Steady or In, so no item comes to wait in them (R116). -/
theorem RampSound.stepK {r : Ramp} {emptySet : Prop} (i : RampSound r emptySet) : RampSound (stepK r) emptySet := by
  obtain ⟨state, k⟩ := r
  obtain ⟨factor, empty⟩ := i
  cases state with
  | steady => exact ⟨rfl, fun _ => empty (.inl rfl)⟩
  | rampOut => exact ⟨(Nat.sub_le k 1).trans factor, by simp [quiet, Machine.stepK]⟩
  | held => exact ⟨rfl, by simp [quiet, Machine.stepK]⟩
  | rampIn =>
    have nothing : emptySet := empty (.inr rfl)
    by_cases h : k < 32
    · rw [show Machine.stepK ⟨.rampIn, k⟩ = ⟨.rampIn, k + 1⟩ from if_pos h]
      exact ⟨⟨Nat.le_add_left 1 k, h⟩, fun _ => nothing⟩
    · rw [show Machine.stepK ⟨.rampIn, k⟩ = ⟨.steady, 32⟩ from if_neg h]
      exact ⟨rfl, fun _ => nothing⟩

/-! ### A sound path, of a channel and of a slot -/

theorem PathSound.stepPath {p : ChannelPath} (i : PathSound p) : PathSound (stepPath p) := by
  unfold Machine.stepPath
  split
  · exact rampSound_entersIn rfl
  · exact RampSound.stepK i

theorem SlotSound.stepSlot {p : SlotPath} (i : SlotSound p) : SlotSound (stepSlot p) := by
  unfold Machine.stepSlot
  split
  · exact rampSound_entersIn rfl
  · exact RampSound.stepK i

theorem PathSound.rampedPath {p : ChannelPath} (i : PathSound p) (entering : Bool) : PathSound (rampedPath entering p) := by
  cases entering with
  | true => exact rampSound_entersIn rfl
  | false => exact i.stepPath

theorem SlotSound.rampedSlot {p : SlotPath} (i : SlotSound p) (entering : Bool) : SlotSound (rampedSlot entering p) := by
  cases entering with
  | true => exact rampSound_entersIn rfl
  | false => exact i.stepSlot

/-- A path is sound whatever item was posted to it (R115, R119). -/
theorem PathSound.posted {p q : ChannelPath} (i : PathSound p) (h : q.ramp = turnRamp p.ramp) : PathSound q := by
  rw [PathSound, h]
  exact RampSound.turned i _

/-- The delay items of a settling are posted one by one (R102). -/
theorem PathSound.postChannelDelays {s : State} {c : Chan} (i : PathSound (pathAt s c)) :
    PathSound (postChannelDelays s c) := by
  unfold Machine.postChannelDelays
  refine List.foldlRecOn _ _ (motive := PathSound) i fun p posted k _ => ?_
  split
  · exact posted
  · exact posted.posted rfl

theorem SlotSound.postSlot {p : SlotPath} (i : SlotSound p) (s : State) : SlotSound (postSlot s p) := by
  unfold Machine.postSlot
  split
  · exact i
  · split
    · exact i
    · exact RampSound.turned i _

/-! ### The application of a named ramp (R117, R123) -/

theorem applyRamp_channel (c : Chan) (s : State) : applyRamp (.channel c) s =
    if applicationDue (pathAt s c).ramp then setPath s c (stepPath (pathAt s c)) else s := rfl

theorem applyRamp_slot (o : SlotIx) (s : State) : applyRamp (.slot o) s =
    if applicationDue (s.mxd.slots.get o).ramp then
      s.setMxd { s.mxd with slots := s.mxd.slots.put o (stepSlot (s.mxd.slots.get o)) }
    else s := rfl

theorem applicationDue_at_bottom {r : Ramp} (h : r = { state := .rampOut, k := 0 }) : applicationDue r = true := by
  rw [h]
  rfl

/-- A slot's application, as `stepPath_applying` has it for a channel. -/
theorem stepSlot_applying {p : SlotPath} (h : p.ramp = { state := .rampOut, k := 0 }) :
    stepSlot p = { p with delay := p.pending.getD p.delay, pending := none, ramp := { state := .rampIn, k := 1 } } := by
  rw [stepSlot, if_pos (applicationDue_at_bottom h)]
  rfl

/-- PENDING_SET_APPLICATION, where frames are formed and the pin is not asserted. -/
theorem exec_pendingSetApplication {s : State} (hpin : s.resetPin = false) (hs : takesFrames s = true) (r : RampId) :
    exec (.pendingSetApplication r) s = .next (applyRamp r s) := by
  show Host.Outcome.next _ = _
  rw [if_pos (by simp [hearsLanes, hpin, hs])]

/-- Settles O48: the path stored is the one the application forms, read place by place. -/
theorem pendingSetComesIntoForceWhole : Obligations.PendingSetComesIntoForceWhole := by
  intro s hpin hs
  refine ⟨fun c h => ?channel, fun o h => ?slot⟩
  case channel =>
    refine ⟨_, exec_pendingSetApplication hpin hs _, ?_⟩
    rw [applyRamp_channel, if_pos (applicationDue_at_bottom h), stepPath_applying h, pathAt_setPath_self]
    refine ⟨rfl, fun k => ?_, fun changed => if_neg changed, fun same => if_pos same, rfl, rfl, rfl, rfl⟩
    simp [applyPending, effectiveDelay]
  case slot =>
    rw [exec_pendingSetApplication hpin hs, applyRamp_slot, if_pos (applicationDue_at_bottom h), stepSlot_applying h]
    rfl

/-! ### Storing a path, a settling, the resets (R32, R33, R98, R122, R124) -/

/-- A property of every thing in a table stands when a thing with the property is put in it. -/
theorem forall_get_put {n : Nat} {α : Type} {P : α → Prop} {t : Table n α} {i : Fin n} {x : α} (all : ∀ j, P (t.get j))
    (h : P x) (j : Fin n) : P ((t.put i x).get j) := by
  rw [Table.get_put]
  split
  · exact h
  · exact all j

section
variable {s t : State} (i : RampsOk s)
include i

theorem RampsOk.of_paths (h : t.mxd.channels = s.mxd.channels ∧ t.mxd.slots = s.mxd.slots) : RampsOk t := by
  obtain ⟨hchannels, hslots⟩ := h
  simpa only [RampsOk, pathAt, hchannels, hslots] using i

theorem RampsOk.of_mxd (h : t.mxd = s.mxd) : RampsOk t :=
  i.of_paths ⟨by rw [h], by rw [h]⟩

theorem RampsOk.setPath (c : Chan) {p : ChannelPath} (h : PathSound p) : RampsOk (setPath s c p) := by
  obtain ⟨paths, slots⟩ := (rampsOk_iff s).mp i
  exact ⟨forall_get_put paths h, slots⟩

theorem RampsOk.setSlot (o : SlotIx) {p : SlotPath} (h : SlotSound p) :
    RampsOk (s.setMxd { s.mxd with slots := s.mxd.slots.put o p }) := by
  obtain ⟨paths, slots⟩ := (rampsOk_iff s).mp i
  exact ⟨paths, forall_get_put slots h⟩

theorem RampsOk.settle : RampsOk (settle s) := by
  obtain ⟨paths, slots⟩ := (rampsOk_iff s).mp i
  refine (rampsOk_iff _).mpr ⟨fun c => ?_, fun o => ?_⟩
  · rw [pathAt_settle]
    exact PathSound.postChannelDelays (paths c)
  · rw [slot_settle]
    exact (slots o).postSlot _

/-- A settling of a state with the same datapath, whatever else was written before it. -/
theorem RampsOk.settle_of_mxd (h : t.mxd = s.mxd) : RampsOk (Machine.settle t) :=
  (i.of_mxd h).settle

/-- With the channels as they were, slots set anew with their ramps Held are sound (R122, R124). -/
theorem RampsOk.of_heldSlots (hchannels : t.mxd.channels = s.mxd.channels)
    (held : ∀ o, (t.mxd.slots.get o).ramp = rampHeld) : RampsOk t := by
  obtain ⟨paths, -⟩ := (rampsOk_iff s).mp i
  refine (rampsOk_iff t).mpr ⟨fun c => ?_, fun o => ?_⟩
  · rw [pathAt, hchannels]
    exact paths c
  · rw [SlotSound, held o]
    exact rampSound_held _

theorem RampsOk.takeSettings (b : BootSettings) : RampsOk (takeSettings b s) :=
  i.of_heldSlots rfl fun o => by simp [Machine.takeSettings, bootSlot]

theorem RampsOk.bootReadEnds (settings : Option BootSettings) : RampsOk (bootReadEnds settings s) := by
  cases settings with
  | some b => exact (i.takeSettings b).of_mxd rfl
  | none => exact (i.takeSettings failedSettings).of_mxd (by simp [Machine.bootReadEnds, leaveBooting])

end

/-- Where every ramp is Held, no factor and no item matters (R122). -/
theorem rampsOk_of_held {t : State} (paths : ∀ c, (pathAt t c).ramp = rampHeld)
    (slots : ∀ o, (t.mxd.slots.get o).ramp = rampHeld) : RampsOk t := by
  refine (rampsOk_iff t).mpr ⟨fun c => ?_, fun o => ?_⟩
  · rw [PathSound, paths c]
    exact rampSound_held _
  · rw [SlotSound, slots o]
    exact rampSound_held _

theorem rampsOk_powerOnReset (straps : BitVec 4) (s : State) : RampsOk (powerOnReset straps s) :=
  reset_rampsOk.of_mxd rfl

theorem rampsOk_pinResetTaken (straps : BitVec 4) (s : State) : RampsOk (pinResetTaken straps s) :=
  (rampsOk_powerOnReset straps s).of_heldSlots rfl fun o => by simp [pinResetTaken, resetSlot]

theorem rampsOk_stationResetTaken (straps : BitVec 4) (s : State) : RampsOk (stationResetTaken straps s) :=
  rampsOk_of_held (fun c => by rw [pathAt_stationResetTaken]; rfl) fun o => by rw [slot_stationResetTaken]; rfl

theorem rampsOk_leaveIsolated (s : State) : RampsOk (leaveIsolated s) := by
  obtain ⟨path, slot, -⟩ := isolationCleared_mxd s
  rw [leaveIsolated_eq]
  exact (rampsOk_of_held (fun c => by rw [path c]) fun o => by rw [slot o]).settle

/-! ### Changes (R40, R50, R51, R107, R115) -/

section
variable {s : State} (i : RampsOk s)
include i

theorem RampsOk.writeSource (c : Chan) (w : Word) : RampsOk (writeSource c w s) := by
  obtain ⟨paths, -⟩ := (rampsOk_iff s).mp i
  have evaluated : (evaluateChannel c (setChannel s c { channelAt s c with source := sourceOf w })).mxd = s.mxd := by simp
  have posted := (i.of_mxd evaluated).setPath c ((paths c).posted (q := postSource (sourceOf w) (pathAt s c)) rfl)
  rw [← pathAt_congr evaluated] at posted
  exact posted.settle_of_mxd (by simp)

theorem RampsOk.writeSendBus (c : Chan) (k : SendIx) (w : Word) : RampsOk (writeSendBus c k w s) := by
  obtain ⟨paths, -⟩ := (rampsOk_iff s).mp i
  have stored : RampsOk (setSend s c k { (channelAt s c).sends.get k with bus := busOf w.toNat }) := i.of_mxd (by simp)
  exact (stored.setPath c ((paths c).posted rfl)).settle

theorem RampsOk.applyWrite (c : Chan) (id : BitVec 16) (w : Word) : RampsOk (applyWrite c id w s) := by
  by_cases hsource : paramOf id = .source
  · simpa only [Machine.applyWrite, hsource] using i.writeSource c w
  · by_cases hbus : ∃ k, paramOf id = .sendBus k
    · obtain ⟨k, hk⟩ := hbus
      simpa only [Machine.applyWrite, hk] using i.writeSendBus c k w
    · obtain ⟨hmxd, -⟩ := applyWrite_quiet hsource (fun k hk => hbus ⟨k, hk⟩) c w s
      exact i.of_mxd hmxd

theorem RampsOk.applyChange (x : LaneChange) : RampsOk (applyChange s x) := by
  unfold Machine.applyChange
  split
  · exact i.applyWrite _ _ _
  · exact i.of_mxd (by simp)

theorem RampsOk.applyDueChanges : RampsOk (applyDueChanges s) := by
  unfold Machine.applyDueChanges
  exact List.foldlRecOn _ _ (motive := RampsOk) (i.of_mxd rfl) fun _ applied x _ => applied.applyChange x

theorem RampsOk.rearmChannel (c : Chan) : RampsOk (rearmChannel c s) := by
  unfold Machine.rearmChannel
  split
  · exact i.settle
  · exact i.settle_of_mxd (by simp)

/-! ### A strobe (R32, R116, R121, R166) -/

theorem RampsOk.stationAtStrobe : RampsOk (stationAtStrobe s) := by
  by_cases h : s.stc.station = .isolated
  · simp only [Machine.stationAtStrobe, h]
    exact (rampsOk_leaveIsolated s).of_mxd rfl
  · exact i.of_mxd (stationAtStrobe_mxd h)

theorem RampsOk.changesAtStrobe (e : StrobeEvent) : RampsOk (changesAtStrobe e s) := by
  have flushed : RampsOk (if flushes e then flushQueue s else s) := by
    split
    · exact i.of_mxd (by simp)
    · exact i
  unfold Machine.changesAtStrobe
  dsimp only
  generalize (if flushes e then flushQueue s else s) = r at flushed ⊢
  split
  · exact flushed.applyDueChanges
  · exact flushed

theorem RampsOk.changedAtStrobe (p : Position) : RampsOk (changedAtStrobe p s) := by
  have received : RampsOk (takeStrobe p s) := i.of_mxd (by simp)
  exact (received.stationAtStrobe.of_paths (closeFrame_paths _)).changesAtStrobe _

/-- Forming the frame takes each ramp's step and leaves its factor and its items otherwise. -/
theorem RampsOk.strobeTaken (p : Position) (inputs : Table 48 Sample) : RampsOk (strobeTaken p inputs s) := by
  by_cases hb : s.stc.station = .booting
  · rw [strobeTaken_booting p inputs hb]
    exact i.of_mxd (by simp)
  · obtain ⟨paths, slots⟩ := (rampsOk_iff _).mp (i.changedAtStrobe p)
    refine (rampsOk_iff _).mpr ⟨fun c => ?_, fun o => ?_⟩
    · rw [pathAt_strobeTaken p inputs hb]
      exact (paths c).rampedPath _
    · rw [slot_strobeTaken p inputs hb]
      exact (slots o).rampedSlot _

/-- A ramp named by a PENDING_SET_APPLICATION takes its step where its application is due (R117, R123). -/
theorem RampsOk.applyRamp (r : RampId) : RampsOk (applyRamp r s) := by
  obtain ⟨paths, slots⟩ := (rampsOk_iff s).mp i
  cases r with
  | channel c =>
    rw [applyRamp_channel]
    split
    · exact i.setPath c (paths c).stepPath
    · exact i
  | slot o =>
    rw [applyRamp_slot]
    split
    · exact i.setSlot o (slots o).stepSlot
    · exact i

/-! ### A peer lane's arrival (R13 to R17, R96) -/

theorem RampsOk.peerArrival (m : KeptByMessages RampsOk) (lane : LaneIx) (straps : BitVec 4) (v : Option (Table 54 Word)) :
    RampsOk (peerArrival lane straps v s) := by
  have left : ∀ r, RampsOk (leavePresent lane (setLane s lane r)) := fun r => i.settle_of_mxd (by simp)
  refine peerArrival_cases lane straps v s (fun r _ _ => i.of_mxd (by simp)) (fun r ws => ?taken)
    (fun n => i.of_mxd (by simp)) left (fun r => (left r).of_mxd (by simp [losePeer]))
  case taken =>
    have settled : RampsOk (Machine.settle (evalLinkScopes (storeHeader lane ws (setLane s lane r)))) :=
      i.settle_of_mxd (by simp)
    exact m.takeSlots _ _ _ _ _ (settled.of_paths (by simp [addBusWords_mxd]))

end

/-! ### Every step -/

theorem rampsOk_keptByMessages : KeptByMessages RampsOk where
  fault _ i := i.of_mxd (by simp)
  change _ _ _ _ _ i := i.of_mxd (by simp)
  bind _ _ _ _ _ _ i := i.of_mxd (by simp)
  query _ _ i := i.of_mxd (by simp)
  watch _ _ _ _ _ i := i.of_mxd (by simp)
  unwatch _ _ i := i.of_mxd (by simp)
  rearm c _ i := i.rearmChannel c
  clear _ _ i := i.of_mxd (by simp)
  announce _ i := i.of_mxd (by simp)
  reset straps s _ _ := rampsOk_stationResetTaken straps s
  reassembly _ _ _ i := i.of_mxd (by simp)

theorem rampsOk_keptBySteps : KeptBySteps RampsOk where
  toKeptByMessages := rampsOk_keptByMessages
  queue _ _ i := i.of_mxd rfl
  powerOn straps s _ := rampsOk_powerOnReset straps s
  pinAsserted _ i := i.of_paths ⟨rfl, rfl⟩
  pinReset straps s _ := rampsOk_pinResetTaken straps s
  boot settings _ _ i := i.bootReadEnds settings
  strobe p inputs _ i := i.strobeTaken p inputs
  loss _ i := i.of_paths (by unfold lossTaken; split <;> exact ⟨rfl, rfl⟩)
  peer lane straps v _ _ i := i.peerArrival rampsOk_keptByMessages lane straps v
  watched _ _ _ i := i.of_mxd (by simp)
  clean _ i := i.of_mxd (by simp)
  mismatch _ _ i := i.of_mxd (by simp)
  decide _ _ i := i.of_mxd (by simp)
  lock _ _ _ i := i.of_paths ⟨rfl, rfl⟩
  inputFault _ i := i.of_mxd (by simp)
  window _ i := i.of_mxd (by simp)
  ramp r _ i := i.applyRamp r
  close _ _ i := i.of_mxd (by simp)

/-- Settles O46: the agreement of factor, state and items is kept by each operation a step can be. -/
theorem stepKeepsRampsOk : Obligations.StepKeepsRampsOk :=
  fun s t i e => rampsOk_keptBySteps.step s t i e

end Sys2Proof.Machine
end

section
/-! The transmit classes: what each operation queues, drops and drives, and their capacities through every step
(R151 to R154). -/

namespace Sys2Proof.Machine

/-! ### What is queued (R152) -/

/-- Class 3 after a reading comes to it: it replaces the one that waits for its strip, joins the end, or finds no room. -/
def answersAfter (a : MeterAnswer) (m : Mse) : List MeterAnswer :=
  if meterWaits m a.strip then m.meterAnswers.map fun b => if b.strip = a.strip then a else b
  else if m.meterAnswers.length + inProgressCount m .meterAnswer < 8 then m.meterAnswers ++ [a]
  else m.meterAnswers

/-- Queuing a reading writes class 3 and nothing else. -/
theorem queueMeterAnswer_eq (a : MeterAnswer) (s : State) :
    queueMeterAnswer a s = s.setMse { s.mse with meterAnswers := answersAfter a s.mse } := by
  unfold queueMeterAnswer answersAfter
  cases hw : meterWaits s.mse a.strip with
  | true => rfl
  | false =>
    simp only [Bool.false_eq_true, if_false, meterFits, hw, Bool.false_or, decide_eq_true_eq]
    split
    · rfl
    · exact (State.setMse_self s).symm

theorem answersAfter_length (a : MeterAnswer) (m : Mse) (h : m.meterAnswers.length + inProgressCount m .meterAnswer ≤ 8) :
    (answersAfter a m).length + inProgressCount m .meterAnswer ≤ 8 := by
  unfold answersAfter
  split
  · rwa [List.length_map]
  · split
    · next room => rw [List.length_append, List.length_singleton]; omega
    · exact h

/-- A Strip Answer joins the end of class 2 where there is room. -/
theorem queueStripAnswer_room {s : State} (a : StripAnswer)
    (h : s.mse.stripAnswers.length + inProgressCount s.mse .stripAnswer < 8) :
    queueStripAnswer a s = s.setMse { s.mse with stripAnswers := s.mse.stripAnswers ++ [a] } := if_pos h

/-- A Strip Answer is discarded at a full class 2. -/
theorem queueStripAnswer_full {s : State} (a : StripAnswer)
    (h : 8 ≤ s.mse.stripAnswers.length + inProgressCount s.mse .stripAnswer) : queueStripAnswer a s = s :=
  if_neg (Nat.not_lt.mpr h)

/-! ### What a slot drives (R153) -/

/-- A message of more than its head begins: the slot carries the head, and the rest is in progress. -/
theorem beginMessage_cons (cls : TxClass) (w : Word) {ws : List Word} (h : ws ≠ []) (s : State) :
    beginMessage cls (w :: ws) s = (w, s.setMse { s.mse with inProgress := some { cls := cls, rest := ws } }) := by
  simp [beginMessage, h]

/-- What a slot that begins a message can come to: to show a property of the outcome, show it of each case. -/
theorem beginNext_cases {P : Word × State → Prop} (s : State)
    (announce : s.mse.announceWaiting = true →
      P (beginMessage .announce (announceWords s) (s.setMse { s.mse with announceWaiting := false })))
    (notice : ∀ n ns, s.mse.notices = n :: ns →
      P (beginMessage .notice (noticeWords n) (s.setMse { s.mse with notices := ns })))
    (stripAnswer : ∀ a as, s.mse.stripAnswers = a :: as →
      P (beginMessage .stripAnswer (stripAnswerWords a) (s.setMse { s.mse with stripAnswers := as })))
    (meterAnswer : ∀ a as, s.mse.meterAnswers = a :: as →
      P (beginMessage .meterAnswer (meterAnswerWords a)
        (clearWaitingMark a.strip (s.setMse { s.mse with meterAnswers := as }))))
    (idle : P (0, s)) : P (beginNext s) := by
  unfold beginNext
  split
  · next h => exact announce h
  · split
    · next h => exact notice _ _ h
    · split
      · next h => exact stripAnswer _ _ h
      · split
        · next h => exact meterAnswer _ _ h
        · exact idle

/-- What a slot can come to: the message in progress goes on, or the next one begins. -/
theorem fillSlot_cases {P : Word × State → Prop} (s : State)
    (goesOn : ∀ cls w ws, s.mse.inProgress = some { cls := cls, rest := w :: ws } →
      P (w, s.setMse { s.mse with inProgress := if ws.isEmpty then none else some { cls := cls, rest := ws } }))
    (begins : s.mse.inProgress = none ∨ (∃ cls, s.mse.inProgress = some { cls := cls, rest := [] }) → P (beginNext s)) :
    P (fillSlot s) := by
  unfold fillSlot
  split
  · next h => exact goesOn _ _ _ h
  · next h => exact begins (.inr ⟨_, h⟩)
  · next h => exact begins (.inl h)

/-! ### Capacities kept (R152) -/

section
variable {s t : State}

/-- The capacities read classes 1 to 3 and the message in progress. -/
theorem TransmitOk.of_classes (i : TransmitOk s)
    (h : t.mse.notices = s.mse.notices ∧ t.mse.stripAnswers = s.mse.stripAnswers ∧
      t.mse.meterAnswers = s.mse.meterAnswers ∧ t.mse.inProgress = s.mse.inProgress) : TransmitOk t := by
  obtain ⟨hn, hs, hm, hp⟩ := h
  simpa only [TransmitOk, inProgressCount, hn, hs, hm, hp] using i

theorem TransmitOk.of_mse (i : TransmitOk s) (h : t.mse = s.mse) : TransmitOk t :=
  i.of_classes (by simp [h])

theorem transmitOk_of_cleared (h : t.mse = Mse.cleared) : TransmitOk t := by
  simp [TransmitOk, inProgressCount, h, Mse.cleared]

theorem TransmitOk.raise (i : TransmitOk s) (c : Condition) : TransmitOk (raise c s) := by
  obtain ⟨hn, hs, hm, hp⟩ := i
  rw [raise_eq]
  refine ⟨?_, hs, hm, hp⟩
  show (noticesAfter c s).length + inProgressCount s.mse .notice ≤ 8
  unfold noticesAfter
  split
  · next h =>
    obtain ⟨-, room⟩ := (Bool.and_eq_true _ _).mp h
    rw [List.length_append, List.length_singleton]
    have := of_decide_eq_true room
    omega
  · exact hn

theorem TransmitOk.raiseIf (i : TransmitOk s) (b : Bool) (c : Condition) : TransmitOk (raiseIf b c s) :=
  raiseIf_cases b c s i (i.raise c)

theorem TransmitOk.queueStripAnswer (i : TransmitOk s) (a : StripAnswer) : TransmitOk (queueStripAnswer a s) := by
  obtain ⟨hn, hs, hm, hp⟩ := i
  by_cases room : s.mse.stripAnswers.length + inProgressCount s.mse .stripAnswer < 8
  · rw [queueStripAnswer_room a room]
    refine ⟨hn, ?_, hm, hp⟩
    show (s.mse.stripAnswers ++ [a]).length + inProgressCount s.mse .stripAnswer ≤ 8
    rw [List.length_append, List.length_singleton]
    omega
  · rw [queueStripAnswer_full a (Nat.not_lt.mp room)]
    exact ⟨hn, hs, hm, hp⟩

/-- Class 3 within its capacity keeps the capacities. -/
theorem TransmitOk.setAnswers (i : TransmitOk s) {as : List MeterAnswer}
    (h : as.length + inProgressCount s.mse .meterAnswer ≤ 8) : TransmitOk (s.setMse { s.mse with meterAnswers := as }) := by
  obtain ⟨hn, hs, -, hp⟩ := i
  exact ⟨hn, hs, h, hp⟩

theorem TransmitOk.queueMeterAnswer (i : TransmitOk s) (a : MeterAnswer) : TransmitOk (queueMeterAnswer a s) := by
  have ⟨_, _, hm, _⟩ := i
  rw [queueMeterAnswer_eq]
  exact i.setAnswers (answersAfter_length a s.mse hm)

theorem TransmitOk.dropMeterAnswer (i : TransmitOk s) (strip : BitVec 16) : TransmitOk (dropMeterAnswer strip s) := by
  have ⟨_, _, hm, _⟩ := i
  have shorter := List.length_filter_le (fun a : MeterAnswer => decide (a.strip ≠ strip)) s.mse.meterAnswers
  exact i.setAnswers (by omega)

/-- A message in progress that counts no more than the one before it keeps the capacities. -/
theorem TransmitOk.setProgress (i : TransmitOk s) {q : Option InProgress}
    (hle : ∀ c, inProgressCount { s.mse with inProgress := q } c ≤ inProgressCount s.mse c)
    (hne : ∀ p, q = some p → p.rest ≠ []) : TransmitOk (s.setMse { s.mse with inProgress := q }) := by
  obtain ⟨hn, hs, hm, -⟩ := i
  have notice := hle .notice
  have stripAnswer := hle .stripAnswer
  have meterAnswer := hle .meterAnswer
  exact ⟨(Nat.add_le_add_left notice _).trans hn, (Nat.add_le_add_left stripAnswer _).trans hs,
    (Nat.add_le_add_left meterAnswer _).trans hm, hne⟩

theorem TransmitOk.discardInProgress (i : TransmitOk s) : TransmitOk (discardInProgress s) :=
  i.setProgress (fun _ => Nat.zero_le _) nofun

/-! ### The slots (R153) -/

/-- A message begins within the capacities where its class had room for it. -/
theorem transmitOk_beginMessage {cls : TxClass} (w : Word) {ws : List Word} (hne : ws ≠ [])
    (hn : s.mse.notices.length + (if cls = .notice then 1 else 0) ≤ 8)
    (hs : s.mse.stripAnswers.length + (if cls = .stripAnswer then 1 else 0) ≤ 8)
    (hm : s.mse.meterAnswers.length + (if cls = .meterAnswer then 1 else 0) ≤ 8) :
    TransmitOk (beginMessage cls (w :: ws) s).2 := by
  rw [beginMessage_cons cls w hne]
  refine ⟨hn, hs, hm, ?_⟩
  rintro p ⟨⟩
  exact hne

/-- The next message leaves its place among the waiting ones and counts as the one in progress. -/
theorem TransmitOk.beginNext (i : TransmitOk s) (h : s.mse.inProgress = none) : TransmitOk (beginNext s).2 := by
  have idle : TransmitOk s := i
  simp only [TransmitOk, inProgressCount, h] at i
  obtain ⟨hn, hs, hm, -⟩ := i
  refine beginNext_cases (P := fun out => TransmitOk out.2) s (fun _ => ?announce) (fun n ns hq => ?notice)
    (fun a as hq => ?stripAnswer) (fun a as hq => ?meterAnswer) idle
  case announce => exact transmitOk_beginMessage _ (by simp) hn hs hm
  case notice =>
    rw [hq] at hn
    exact transmitOk_beginMessage _ (by simp) hn hs hm
  case stripAnswer =>
    rw [hq] at hs
    exact transmitOk_beginMessage _ (by simp) hn hs hm
  case meterAnswer =>
    rw [hq] at hm
    exact transmitOk_beginMessage _ (by simp) hn hs hm

theorem TransmitOk.fillSlot (i : TransmitOk s) : TransmitOk (fillSlot s).2 := by
  refine fillSlot_cases (P := fun out => TransmitOk out.2) s (fun cls w ws hp => ?goesOn) (fun h => ?begins)
  case goesOn =>
    cases ws with
    | nil => exact i.setProgress (fun _ => Nat.zero_le _) nofun
    | cons v vs =>
      refine i.setProgress (fun c => ?_) (by simp)
      rw [inProgressCount, inProgressCount, hp]
      exact le_refl _
  case begins =>
    have ⟨_, _, _, hp⟩ := i
    rcases h with h | ⟨cls, h⟩
    · exact i.beginNext h
    · exact absurd rfl (hp _ h)

/-! ### Settlings and changes (R98, R144, R157, R161, R165, R166) -/

theorem TransmitOk.settle (i : TransmitOk s) : TransmitOk (settle s) := by
  have posted : TransmitOk (postDelays (s.setAlu (settled s).1)) := i.of_mse (by simp)
  exact posted.raiseIf _ _

theorem TransmitOk.writeSource (i : TransmitOk s) (c : Chan) (w : Word) : TransmitOk (writeSource c w s) := by
  unfold Machine.writeSource
  dsimp only
  refine TransmitOk.settle (TransmitOk.raiseIf ?_ _ _)
  exact i.of_mse (by simp)

theorem TransmitOk.applyWrite (i : TransmitOk s) (c : Chan) (id : BitVec 16) (w : Word) : TransmitOk (applyWrite c id w s) := by
  unfold Machine.applyWrite
  cases paramOf id with
  | source => exact i.writeSource c w
  | sendBus k => exact TransmitOk.settle (i.of_mse (by simp))
  | _ => exact i.of_mse (by simp)

theorem TransmitOk.applyChange (i : TransmitOk s) (x : LaneChange) : TransmitOk (applyChange s x) := by
  unfold Machine.applyChange
  split
  · exact i.applyWrite _ _ _
  · exact i.of_mse (by simp)

theorem TransmitOk.applyDueChanges (i : TransmitOk s) : TransmitOk (applyDueChanges s) := by
  unfold Machine.applyDueChanges
  exact List.foldlRecOn _ _ (motive := TransmitOk) (i.of_mse rfl) fun _ applied x _ => applied.applyChange x

theorem TransmitOk.rearmChannel (i : TransmitOk s) (c : Chan) : TransmitOk (rearmChannel c s) := by
  unfold Machine.rearmChannel
  split
  · exact i.settle
  · refine TransmitOk.settle (TransmitOk.raiseIf ?_ _ _)
    exact i.of_mse (by simp)

theorem TransmitOk.placeChanges (i : TransmitOk s) (cs : List LaneChange) (p : Option Position) :
    TransmitOk (placeChanges cs p s) := by
  have due : TransmitOk (placeDue cs s) := i.of_mse rfl
  unfold Machine.placeChanges
  split
  · exact i
  · exact due
  · split
    · exact due
    · split
      · exact i.of_mse rfl
      · exact due.raise _

theorem TransmitOk.closeSet (i : TransmitOk s) (lane : LaneIx) : TransmitOk (closeSet lane s) := by
  have closed : TransmitOk (setCollection s lane BindCollection.cleared) := i.of_mse rfl
  exact closed.placeChanges _ _

theorem TransmitOk.countDown (i : TransmitOk s) (lane : LaneIx) (col : BindCollection) : TransmitOk (countDown lane col s) := by
  have counted : TransmitOk (setCollection s lane { col with remaining := col.remaining - 1 }) := i.of_mse rfl
  unfold Machine.countDown
  dsimp only
  split
  · exact counted.closeSet lane
  · exact counted

theorem TransmitOk.countMember (i : TransmitOk s) (lane : LaneIx) (c : Option Change) (p : Option Position) :
    TransmitOk (countMember lane c p s) := by
  unfold Machine.countMember
  dsimp only
  split
  · exact i.countDown _ _
  · split
    · refine TransmitOk.placeChanges (TransmitOk.closeSet ?_ lane) _ _
      exact i.of_mse rfl
    · exact i.countDown _ _

theorem TransmitOk.takeChange (i : TransmitOk s) (lane : LaneIx) (c : Option Change) (p : Option Position) :
    TransmitOk (takeChange lane c p s) := by
  unfold Machine.takeChange
  split
  · exact i.countMember _ _ _
  · split
    · exact i
    · exact i.placeChanges _ _

/-! ### Meters (R172, R175) -/

theorem TransmitOk.watchStrip (i : TransmitOk s) (strip : BitVec 16) (c : Chan) : TransmitOk (watchStrip strip c s) := by
  have dropped : ∀ e, TransmitOk (dropAnswerOf e s) := by
    intro e
    unfold dropAnswerOf
    split
    · split
      · exact i.dropMeterAnswer _
      · exact i
    · exact i
  unfold Machine.watchStrip
  split
  · split
    · exact i.of_mse rfl
    · exact i
  · exact (dropped _).of_mse rfl

theorem TransmitOk.windowEntry (i : TransmitOk s) (e : EntryIx) : TransmitOk (windowEntry s e) := by
  unfold Machine.windowEntry
  split
  · exact i
  · exact (i.queueMeterAnswer _).of_mse rfl

theorem TransmitOk.endWindow (i : TransmitOk s) : TransmitOk (endWindow s) := by
  have ended : TransmitOk ((List.finRange 8).foldl Machine.windowEntry s) :=
    List.foldlRecOn _ _ (motive := TransmitOk) i fun _ taken e _ => taken.windowEntry e
  exact ended.of_mse (State.setMtu_mse _ _)

theorem TransmitOk.meterFrame (i : TransmitOk s) : TransmitOk (meterFrame s) := by
  unfold Machine.meterFrame
  dsimp only
  split
  · refine TransmitOk.endWindow ?_
    exact i.of_mse rfl
  · exact i.of_mse rfl

/-! ### The station (R27, R30, R32, R33) -/

theorem transmitOk_stationResetTaken (straps : BitVec 4) (s : State) : TransmitOk (stationResetTaken straps s) := by
  obtain ⟨-, -, hmse, -⟩ := stationResetSettled_blocks straps s
  rw [stationResetTaken_eq]
  exact TransmitOk.raiseIf (transmitOk_of_cleared (by rw [State.setMxd_mse, hmse])) _ _

theorem TransmitOk.bootReadEnds (i : TransmitOk s) (b : Option BootSettings) : TransmitOk (bootReadEnds b s) := by
  unfold Machine.bootReadEnds
  split
  · exact i.of_mse (by simp)
  · have taken : TransmitOk (takeSettings failedSettings s) := i.of_mse (by simp)
    exact (taken.raise .bootFault).of_mse (by simp)

theorem TransmitOk.decideListening (i : TransmitOk s) : TransmitOk (decideListening s) := by
  have silent : TransmitOk (enterSilent .nodeInUse s) := TransmitOk.discardInProgress (i.of_mse rfl)
  unfold Machine.decideListening
  split
  · exact i.of_mse (by simp)
  · exact silent
  · exact silent

theorem TransmitOk.mismatchReadback (i : TransmitOk s) : TransmitOk (mismatchReadback s) := by
  unfold Machine.mismatchReadback
  dsimp only
  split
  · exact TransmitOk.discardInProgress (i.of_mse rfl)
  · exact i.of_mse rfl

/-- The end of Isolated empties the classes before its settling reports (R32, R154). -/
theorem transmitOk_leaveIsolated (s : State) : TransmitOk (leaveIsolated s) := by
  have emptied : TransmitOk (isolationCleared s) := by
    simp [TransmitOk, inProgressCount, isolationCleared, emptyClasses, clearWaitingMarks, clearScheduler]
  exact emptied.settle

theorem TransmitOk.stationAtStrobe (i : TransmitOk s) : TransmitOk (stationAtStrobe s) := by
  unfold Machine.stationAtStrobe
  split
  · exact (transmitOk_leaveIsolated s).of_mse rfl
  · exact i.of_mse rfl
  · split
    · exact i.of_classes (by simp)
    · exact i
  all_goals exact i

/-! ### A strobe (R28, R73, R128, R153, R166, R174) -/

theorem TransmitOk.changesAtStrobe (i : TransmitOk s) (e : StrobeEvent) : TransmitOk (changesAtStrobe e s) := by
  have flushed : TransmitOk (if flushes e then flushQueue s else s) := by
    split
    · exact i.of_mse rfl
    · exact i
  unfold Machine.changesAtStrobe
  dsimp only
  generalize (if flushes e then flushQueue s else s) = r at flushed ⊢
  split
  · exact flushed.applyDueChanges
  · exact flushed

theorem TransmitOk.closeFrame (i : TransmitOk s) : TransmitOk (closeFrame s) := by
  obtain ⟨b, m, closed⟩ := closeFrame_eq s
  rw [closed]
  refine TransmitOk.raiseIf ?_ _ _
  exact i.of_mse rfl

theorem TransmitOk.takeStrobe (i : TransmitOk s) (p : Position) : TransmitOk (takeStrobe p s) := by
  refine TransmitOk.raiseIf ?_ _ _
  exact i.of_mse rfl

theorem TransmitOk.formedAtStrobe (i : TransmitOk s) (p : Position) (inputs : Table 48 Sample) :
    TransmitOk (formedAtStrobe p inputs s) := by
  exact ((i.takeStrobe p).stationAtStrobe.closeFrame.changesAtStrobe (classify s.rfr p)).of_mse
    (by simp [Machine.formedAtStrobe])

/-- A Contributing frame reports Clip, takes the meters and fills its two slots. -/
theorem TransmitOk.openByStation (i : TransmitOk s) (before : State) : TransmitOk (openByStation before s) := by
  by_cases h : s.stc.station = .contributing
  · have entered : TransmitOk (ownWordsEnter s) := (i.raiseIf _ _).of_mse rfl
    exact entered.meterFrame.fillSlot.fillSlot.of_mse (openByStation_contributing before h).1
  · unfold Machine.openByStation
    dsimp only
    split
    case h_2 hc => exact absurd hc h
    all_goals exact i.of_mse (by simp)

theorem TransmitOk.strobeTaken (i : TransmitOk s) (p : Position) (inputs : Table 48 Sample) :
    TransmitOk (strobeTaken p inputs s) := by
  by_cases hb : s.stc.station = .booting
  · rw [strobeTaken_booting p inputs hb]
    exact (i.takeStrobe p).of_mse (by simp)
  · rw [strobeTaken_eq p inputs s hb]
    exact (i.formedAtStrobe p inputs).openByStation s

/-! ### A peer lane's arrival (R13 to R17, R96, R136, R140) -/

theorem TransmitOk.peerArrival (i : TransmitOk s) (m : KeptByMessages TransmitOk) (lane : LaneIx) (straps : BitVec 4)
    (v : Option (Table 54 Word)) : TransmitOk (peerArrival lane straps v s) := by
  have left : ∀ r, TransmitOk (leavePresent lane (setLane s lane r)) :=
    fun r => TransmitOk.settle (i.of_classes (by simp))
  refine peerArrival_cases lane straps v s (fun r _ _ => i.of_mse (by simp)) (fun r ws => ?taken)
    (fun n => i.of_classes (by simp)) left (fun r => (left r).raise _)
  case taken =>
    have settled : TransmitOk (Machine.settle (evalLinkScopes (storeHeader lane ws (setLane s lane r)))) :=
      TransmitOk.settle (i.of_mse (by simp))
    exact m.takeSlots _ _ _ _ _ (settled.of_mse (by simp))

end

/-! ### Every step -/

theorem transmitOk_keptByMessages : KeptByMessages TransmitOk where
  fault _ i := i.raiseIf _ _
  change _ _ _ _ _ i := i.takeChange _ _ _
  bind _ _ _ _ _ _ i := i.of_mse (by simp)
  query a _ i := i.queueStripAnswer a
  watch _ _ _ _ _ i := i.watchStrip _ _
  unwatch _ _ i := i.of_mse (by simp)
  rearm c _ i := i.rearmChannel c
  clear _ _ i := i.of_mse rfl
  announce _ i := i.of_classes (by simp)
  reset straps s _ _ := transmitOk_stationResetTaken straps s
  reassembly _ _ _ i := i.of_classes (by simp)

theorem transmitOk_keptBySteps : KeptBySteps TransmitOk where
  toKeptByMessages := transmitOk_keptByMessages
  queue _ _ i := i.of_mse rfl
  powerOn _ _ _ := transmitOk_of_cleared rfl
  pinAsserted _ i := i.of_mse (by simp)
  pinReset _ _ _ := transmitOk_of_cleared rfl
  boot b _ _ i := i.bootReadEnds b
  strobe p inputs _ i := i.strobeTaken p inputs
  loss _ i := i.of_mse (by simp)
  peer lane straps v _ _ i := i.peerArrival transmitOk_keptByMessages lane straps v
  watched v s _ i := by
    have stored : TransmitOk (setLane s s.stc.nodeId (presenceStep (laneAt s s.stc.nodeId) (arrivalKind v)).1) :=
      i.of_mse (by simp)
    unfold watchedArrival
    dsimp only
    split
    · exact stored.decideListening
    · exact stored
  clean _ i := i.of_mse (by simp)
  mismatch _ _ i := i.mismatchReadback
  decide _ _ i := i.decideListening
  lock _ _ _ i := i.of_mse (by simp)
  inputFault _ i := i.raise _
  window _ i := i.endWindow
  ramp r s i := i.of_mse (by unfold applyRamp; split <;> split <;> simp)
  close lane _ i := i.closeSet lane

/-- Settles O52: the capacities are kept by each operation a step can be. -/
theorem stepKeepsTransmitOk : Obligations.StepKeepsTransmitOk :=
  fun s t i e => transmitOk_keptBySteps.step s t i e

end Sys2Proof.Machine
end

section
/-! Control messages: reassembly, judging, what a Strip Query queues and where an unbound change is placed (R137 to R146, R152,
R161 to R165). -/

namespace Sys2Proof.Machine

/-! ### Message rows (R33, R143) -/

/-- With the reset pin released a message row is its operation. -/
theorem next_unlessPinned {s t : State} (hpin : s.resetPin = false) {f : State → State} (h : f s = t) :
    Host.Outcome.next (φ := Fault) (ρ := Refusal) (unlessPinned f s) = .next t :=
  congrArg _ ((unlessPinned_released hpin f).trans h)

/-- A strip-addressed message is acted on for the channel its strip names (R138, R143). -/
theorem onStrip_acted {s : State} {strip : BitVec 16} {c : Chan} (act : Chan → State → State) (ht : takesChanges s = true)
    (h : strip.toNat = s.stc.stripBase + c.val) : onStrip strip act s = act c s := by
  rw [onStrip, if_pos ht, stripChannel_eq h]

/-- Settles O36: the query is acted on for its channel, and its answer joins class 2 or finds no room. -/
theorem stripQueryQueuesAnswer : Obligations.StripQueryQueuesAnswer := by
  intro lane strip param s hpin ht
  refine ⟨fun c hc => ⟨fun room => next_unlessPinned hpin ?room, fun full => next_unlessPinned hpin ?full⟩,
    fun out => next_unlessPinned hpin (onStrip_dropped _ (.inr out))⟩
  case room => exact (onStrip_acted _ ht hc).trans (queueStripAnswer_room _ room)
  case full => exact (onStrip_acted _ ht hc).trans (queueStripAnswer_full _ full)

/-! ### Placing an unbound change (R144, R161 to R165) -/

/-- A unit with members is placed as its stamp, the position and the room in the queue say. -/
theorem placedAs_placeChanges (x : LaneChange) (xs : List LaneChange) (stamp : Option Position) (s : State) :
    PlacedAs (x :: xs) stamp s (placeChanges (x :: xs) stamp s) := by
  cases stamp with
  | none => rfl
  | some p =>
    simp only [PlacedAs, placeChanges, fitsQueue, decide_eq_true_eq]
    by_cases due : p.toNat ≤ s.rfr.position.toNat
    · rw [if_pos due, if_pos due]
      rfl
    · rw [if_neg due, if_neg due]
      by_cases fits : s.chs.queue.length + (x :: xs).length ≤ 64
      · rw [if_pos fits, if_pos fits]
        refine ⟨_, _, List.takeWhile_append_dropWhile.symm, fun e he => ?before, fun e he => ?after, rfl⟩
        case before => simpa using List.mem_takeWhile_imp he
        case after =>
          have above := List.head?_dropWhile_not (fun e : QueueEntry => decide (e.target.toNat ≤ p.toNat)) s.chs.queue
          rw [he] at above
          simpa using above
      · rw [if_neg fits, if_neg fits]
        rfl

/-- With no set open on its lane a change this engine acts on is placed by itself. -/
theorem takeChange_unbound {lane : LaneIx} {s : State} (h : (collectionAt s lane).remaining = 0) (c : Change)
    (stamp : Option Position) :
    takeChange lane (some c) stamp s = placeChanges [{ change := c, lane := lane }] stamp s := by
  rw [takeChange, if_neg (by omega)]

/-- With no set open on its lane a change this engine does not act on is dropped. -/
theorem takeChange_unbound_none {lane : LaneIx} {s : State} (h : (collectionAt s lane).remaining = 0)
    (stamp : Option Position) : takeChange lane none stamp s = s := by
  rw [takeChange, if_neg (by omega)]

/-- Settles O26: an unbound change is placed by itself, a Strip Set out of range names no channel and is dropped. -/
theorem unboundChangeIsPlaced : Obligations.UnboundChangeIsPlaced := by
  intro lane stamp s hpin ht hcol
  refine ⟨fun strip param w c hc => ⟨_, next_unlessPinned hpin ?inRange, placedAs_placeChanges _ _ _ _⟩,
    fun strip param w hout => next_unlessPinned hpin ?outOfRange,
    fun gf m => ⟨_, next_unlessPinned hpin ?group, placedAs_placeChanges _ _ _ _⟩⟩
  case inRange =>
    rw [takeStripSet, if_pos ht, stripChannel_eq hc]
    exact takeChange_unbound hcol _ _
  case outOfRange =>
    rw [takeStripSet, if_pos ht, stripChannel_eq_none hout]
    exact takeChange_unbound_none hcol _
  case group =>
    rw [takeGroupLevel, if_pos ht]
    exact takeChange_unbound hcol _ _

/-! ### Reassembly (R139, R140) -/

theorem reassemblyAt_setReassembly (s : State) (m n : LaneIx) (r : Reassembly) :
    reassemblyAt (setReassembly s m r) n = if n = m then r else reassemblyAt s n :=
  Table.get_put _ _ _ _

theorem setReassembly_self (s : State) (n : LaneIx) : setReassembly s n (reassemblyAt s n) = s := by
  simp only [setReassembly, reassemblyAt, Table.put_get]
  rfl

/-- A record that collects takes its next word, or completes its message with the last one. -/
theorem takeWord_collecting {lane : LaneIx} {s : State} {mark : DiscardMark} {head : Word} {n : Nat} {soFar : List Word}
    (h : reassemblyAt s lane = .collecting mark head (n + 1) soFar) (straps : BitVec 4) (w : Word) :
    takeWord lane straps w s =
      if n ≠ 0 then setReassembly s lane (.collecting mark head n (soFar ++ [w]))
      else if mark = .keep then completeMessage lane straps head (soFar ++ [w]) (setReassembly s lane .idle)
      else setReassembly s lane .idle := by
  rw [takeWord, h]
  cases n with
  | zero => cases mark <;> rfl
  | succ n => simp

/-- Settles O50: the record of the lane by the word and by the lost frame, which writes that record alone. -/
theorem reassemblyTakesWordsAndLosses : Obligations.ReassemblyTakesWordsAndLosses := by
  intro lane straps w s
  refine ⟨fun h => ?idle, fun mark head n soFar h => ?collecting, fun h => ?lostIdle, fun m hm => ?others, rfl, rfl⟩
  case idle =>
    rw [takeWord, h]
    exact ⟨fun h0 => if_pos h0, fun h0 hl => (if_neg h0).trans (if_pos hl), fun h0 hl => (if_neg h0).trans (if_neg hl)⟩
  case collecting =>
    rw [takeWord_collecting h]
    refine ⟨fun hn => if_pos hn, fun hn hk => ?kept, fun hn hd => ?discarded, ?lost⟩
    case kept => rw [if_neg (not_not.mpr hn), if_pos hk]
    case discarded => rw [if_neg (not_not.mpr hn), if_neg (by simp [hd])]
    case lost =>
      rw [lostFrame, reassemblyAt_setReassembly, if_pos rfl, h, afterLostFrame]
      by_cases hn : 2 ≤ n
      · rw [if_pos hn, if_pos (by omega), show n + 1 - 2 = n - 1 by omega]
      · rw [if_neg hn, if_neg (by omega)]
  case lostIdle =>
    rw [lostFrame, h, afterLostFrame, ← h]
    exact setReassembly_self s lane
  case others => rw [lostFrame, reassemblyAt_setReassembly, if_neg hm]

/-! ### Judging by length (R137, R142) -/

/-- The judgement Strip Set and Group Level share: two payload words without a stamp, three with one. -/
def judgeChange (act : Word → Word → Option Position → State → State) (head : Word) (payload : List Word)
    (s : State) : State :=
  match payload with
  | [a, v] => if headStamped head then messageFault s else act a v none s
  | [a, v, p] => if headStamped head then act a v (some p) s else messageFault s
  | _ => messageFault s

theorem judgeChange_malformed {act : Word → Word → Option Position → State → State} {head : Word} {payload : List Word}
    (h : payload.length ≠ if headStamped head then 3 else 2) (s : State) : judgeChange act head payload s = messageFault s := by
  unfold judgeChange
  split
  · split
    · rfl
    · next stamped => exact absurd (if_neg stamped).symm h
  · split
    · next stamped => exact absurd (if_pos stamped).symm h
    · rfl
  · rfl

theorem judgeOne_malformed {payload : List Word} (h : payload.length ≠ 1) (act : Word → State → State) (s : State) :
    judgeOne act payload s = messageFault s := by
  unfold judgeOne
  split
  · exact absurd rfl h
  · rfl

theorem judgeNone_malformed {payload : List Word} (h : payload.length ≠ 0) (act : State → State) (s : State) :
    judgeNone act payload s = messageFault s := by
  unfold judgeNone
  split
  · exact absurd rfl h
  · rfl

theorem takeBind_malformed {n : Word} (h : n.toNat = 0 ∨ 4 < n.toNat) (lane : LaneIx) (s : State) :
    takeBind lane n s = messageFault s := by
  rw [takeBind, if_neg (by omega)]

/-- No station has destination 30 (R142). -/
theorem onStation_malformed {dest : BitVec 5} (h : dest = 30) (allowed : State → Bool) (act : State → State) (s : State) :
    onStation dest allowed act s = messageFault s := by
  rw [onStation, if_pos (by rw [h]; rfl)]

/-! ### A completed message by its kind (R137) -/

theorem kindOf_peerOutgoing {n : Nat} (h : 16 ≤ n) (h' : n ≤ 19) : kindOf n = .peerOutgoing := by
  interval_cases n <;> rfl

theorem kindOf_unknown {n : Nat} (h : n = 0 ∨ 11 ≤ n ∧ n ≤ 15 ∨ 20 ≤ n) : kindOf n = .unknown := by
  unfold kindOf
  iterate 11 rw [if_neg (by omega)]

section
variable {head : Word} (lane : LaneIx) (straps : BitVec 4) (payload : List Word) (s : State)

theorem completeMessage_peerOutgoing (h : 16 ≤ headKind head) (h' : headKind head ≤ 19) :
    completeMessage lane straps head payload s = s := by
  rw [completeMessage, kindOf_peerOutgoing h h']

theorem completeMessage_unknown (h : headKind head = 0 ∨ 11 ≤ headKind head ∧ headKind head ≤ 15 ∨ 20 ≤ headKind head) :
    completeMessage lane straps head payload s = messageFault s := by
  rw [completeMessage, kindOf_unknown h]

theorem completeMessage_stripSet (h : headKind head = 1) : completeMessage lane straps head payload s =
    judgeChange (fun a v p => takeStripSet lane (highHalf a) (lowHalf a) v p) head payload s := by
  rw [completeMessage, h]; rfl

theorem completeMessage_stripQuery (h : headKind head = 2) : completeMessage lane straps head payload s =
    judgeOne (fun a => takeStripQuery lane (highHalf a) (lowHalf a)) payload s := by
  rw [completeMessage, h]; rfl

theorem completeMessage_groupLevel (h : headKind head = 3) : completeMessage lane straps head payload s =
    judgeChange (takeGroupLevel lane) head payload s := by
  rw [completeMessage, h]; rfl

theorem completeMessage_bind (h : headKind head = 4) : completeMessage lane straps head payload s =
    judgeOne (takeBind lane) payload s := by
  rw [completeMessage, h]; rfl

theorem completeMessage_watch (h : headKind head = 5) : completeMessage lane straps head payload s =
    judgeOne (fun a => takeWatch (highHalf a)) payload s := by
  rw [completeMessage, h]; rfl

theorem completeMessage_unwatch (h : headKind head = 6) : completeMessage lane straps head payload s =
    judgeOne (fun a => takeUnwatch (highHalf a)) payload s := by
  rw [completeMessage, h]; rfl

theorem completeMessage_rearm (h : headKind head = 7) : completeMessage lane straps head payload s =
    judgeOne (fun a => takeRearm (highHalf a)) payload s := by
  rw [completeMessage, h]; rfl

theorem completeMessage_clearConditions (h : headKind head = 8) : completeMessage lane straps head payload s =
    judgeOne (fun m => takeClearConditions (headDest head) (m.extractLsb' 0 8)) payload s := by
  rw [completeMessage, h]; rfl

theorem completeMessage_rollCall (h : headKind head = 9) : completeMessage lane straps head payload s =
    judgeNone (takeRollCall (headDest head)) payload s := by
  rw [completeMessage, h]; rfl

theorem completeMessage_stationReset (h : headKind head = 10) : completeMessage lane straps head payload s =
    judgeNone (takeStationReset (headDest head) straps) payload s := by
  rw [completeMessage, h]; rfl

/-- A kind of one payload word is malformed at any other length. -/
theorem completeMessage_one_malformed (h : headKind head = 2 ∨ headKind head = 4 ∨ headKind head = 5 ∨ headKind head = 6 ∨
      headKind head = 7 ∨ headKind head = 8) (hl : payload.length ≠ 1) :
    completeMessage lane straps head payload s = messageFault s := by
  rcases h with h | h | h | h | h | h
  · rw [completeMessage_stripQuery _ _ _ _ h, judgeOne_malformed hl]
  · rw [completeMessage_bind _ _ _ _ h, judgeOne_malformed hl]
  · rw [completeMessage_watch _ _ _ _ h, judgeOne_malformed hl]
  · rw [completeMessage_unwatch _ _ _ _ h, judgeOne_malformed hl]
  · rw [completeMessage_rearm _ _ _ _ h, judgeOne_malformed hl]
  · rw [completeMessage_clearConditions _ _ _ _ h, judgeOne_malformed hl]

/-- A station-addressed message of its kind's length is malformed with destination 30. -/
theorem completeMessage_dest_malformed (h : headKind head = 8 ∧ payload.length = 1 ∨
      (headKind head = 9 ∨ headKind head = 10) ∧ payload.length = 0) (hd : headDest head = 30) :
    completeMessage lane straps head payload s = messageFault s := by
  rcases h with ⟨h, hl⟩ | ⟨h | h, hl⟩
  · obtain ⟨m, rfl⟩ := List.length_eq_one_iff.mp hl
    rw [completeMessage_clearConditions _ _ _ _ h]
    exact onStation_malformed hd _ _ s
  · obtain rfl := List.length_eq_zero_iff.mp hl
    rw [completeMessage_rollCall _ _ _ _ h]
    exact onStation_malformed hd _ _ s
  · obtain rfl := List.length_eq_zero_iff.mp hl
    rw [completeMessage_stationReset _ _ _ _ h]
    exact onStation_malformed hd _ _ s

end

/-- Settles O51: the malformed messages by their kind's judgement, and each row with the operation of its kind. -/
theorem malformedMessageIsSkipped : Obligations.MalformedMessageIsSkipped := by
  intro lane straps head payload s
  refine ⟨completeMessage_peerOutgoing _ _ _ _, completeMessage_unknown _ _ _ _, ?change,
    fun ⟨hk, hl⟩ => completeMessage_one_malformed _ _ _ _ hk hl, ?none, ?bind, completeMessage_dest_malformed _ _ _ _,
    fun hpin => ?rows,
    fun hpin => ⟨fun a v hp hs => ?unstamped, fun a v p hp hs => ?stamped, fun a hp => ?one, fun hp => ?empty⟩⟩
  case change =>
    rintro ⟨hk | hk, hl⟩
    · rw [completeMessage_stripSet _ _ _ _ hk]
      exact judgeChange_malformed hl s
    · rw [completeMessage_groupLevel _ _ _ _ hk]
      exact judgeChange_malformed hl s
  case none =>
    rintro ⟨hk | hk, hl⟩
    · rw [completeMessage_rollCall _ _ _ _ hk]
      exact judgeNone_malformed hl _ s
    · rw [completeMessage_stationReset _ _ _ _ hk]
      exact judgeNone_malformed hl _ s
  case bind =>
    rintro hk n rfl hn
    rw [completeMessage_bind _ _ _ _ hk]
    exact takeBind_malformed hn lane s
  case rows =>
    exact ⟨fun n hn => next_unlessPinned hpin (takeBind_malformed hn lane s),
      fun mask => next_unlessPinned hpin (onStation_malformed rfl _ _ s), next_unlessPinned hpin (onStation_malformed rfl _ _ s),
      next_unlessPinned hpin (onStation_malformed rfl _ _ s)⟩
  case unstamped =>
    subst hp
    have plain : ∀ act, judgeChange act head [a, v] s = act a v none s := fun act => if_neg (by rw [headStamped, hs]; decide)
    exact ⟨fun hk => next_unlessPinned hpin ((completeMessage_stripSet _ _ _ _ hk).trans (plain _)).symm,
      fun hk => next_unlessPinned hpin ((completeMessage_groupLevel _ _ _ _ hk).trans (plain _)).symm⟩
  case stamped =>
    subst hp
    have under : ∀ act, judgeChange act head [a, v, p] s = act a v (some p) s := fun act => if_pos hs
    exact ⟨fun hk => next_unlessPinned hpin ((completeMessage_stripSet _ _ _ _ hk).trans (under _)).symm,
      fun hk => next_unlessPinned hpin ((completeMessage_groupLevel _ _ _ _ hk).trans (under _)).symm⟩
  case one =>
    subst hp
    exact ⟨fun hk => next_unlessPinned hpin (completeMessage_stripQuery lane straps [a] s hk).symm,
      fun hk => next_unlessPinned hpin (completeMessage_bind lane straps [a] s hk).symm,
      fun hk => next_unlessPinned hpin (completeMessage_watch lane straps [a] s hk).symm,
      fun hk => next_unlessPinned hpin (completeMessage_unwatch lane straps [a] s hk).symm,
      fun hk => next_unlessPinned hpin (completeMessage_rearm lane straps [a] s hk).symm,
      fun hk => next_unlessPinned hpin (completeMessage_clearConditions lane straps [a] s hk).symm⟩
  case empty =>
    subst hp
    exact ⟨fun hk => next_unlessPinned hpin (completeMessage_rollCall lane straps [] s hk).symm,
      fun hk => next_unlessPinned hpin (completeMessage_stationReset lane straps [] s hk).symm⟩

end Sys2Proof.Machine
end

section
/-! The words of the outgoing messages and the order in which the slot arbiter serves the classes (9.6, R151, R153). -/

namespace Sys2Proof.Machine

/-! ### The words of the outgoing messages (9.6, R151) -/

/-- Two half-words placed side by side are the word they form. -/
theorem place_halves (a b : BitVec 16) : place a.toNat 16 ||| place b.toNat 0 = a ++ b := by
  apply BitVec.eq_of_toNat_eq
  rw [BitVec.toNat_or, place_toNat a.isLt (by decide), place_toNat b.isLt (by decide), BitVec.toNat_append, Nat.shiftLeft_eq,
    Nat.pow_zero, Nat.mul_one]

/-- The words of an Announce, field by field. -/
theorem announce_fields (s : State) : ∃ w1 w2 : Word, announceWords s = [0x83F80000, w1, w2, s.stc.stop.position] ∧
    (s.stc.stripBase < 2 ^ 16 → field w1 16 16 = s.stc.stripBase) ∧ field w1 12 4 = s.stc.nodeId.val ∧
    field w1 8 4 = resetCauseCode s.stc.resetCause ∧ field w1 0 8 = 1 ∧ field w2 24 8 = stopCauseCode s.stc.stop.cause ∧
    field w2 16 8 = stateLeftCode s.stc.stop.left ∧ field w2 0 16 = 0 := by
  have hnode : s.stc.nodeId.val < 2 ^ 4 := s.stc.nodeId.isLt
  have hreset : resetCauseCode s.stc.resetCause < 2 ^ 4 := by cases s.stc.resetCause <;> decide
  have hrev : Config.revision < 2 ^ 8 := by decide
  have hstop : stopCauseCode s.stc.stop.cause < 2 ^ 8 := by cases s.stc.stop.cause <;> decide
  have hleft : stateLeftCode s.stc.stop.left < 2 ^ 8 := by cases s.stc.stop.left <;> decide
  obtain ⟨w, hw, fnode, freset, frev⟩ := announce_station_fields s
  obtain rfl := Option.some.inj hw
  refine ⟨_, _, rfl, fun hbase => ?_, fnode, freset, frev, ?_, ?_, ?_⟩ <;> simp only [field_or]
  · rw [field_place_self hbase (by decide), field_place_above hnode (by decide) (by decide),
      field_place_above hreset (by decide) (by decide), field_place_above hrev (by decide) (by decide)]
    simp
  · rw [field_place_self hstop (by decide), field_place_above hleft (by decide) (by decide), Nat.or_zero]
  · rw [field_place_low _ (by decide), field_place_self hleft (by decide), Nat.zero_or]
  · rw [field_place_low _ (by decide), field_place_low _ (by decide), Nat.zero_or]

/-- The head of a Strip Answer: kind 17, two payload words, the asking lane, all else 0. -/
theorem stripAnswer_head (lane : LaneIx) : field (headWord 17 2 lane.val) 27 5 = 17 ∧ field (headWord 17 2 lane.val) 24 3 = 2 ∧
    field (headWord 17 2 lane.val) 19 5 = lane.val ∧ field (headWord 17 2 lane.val) 0 19 = 0 := by
  revert lane
  decide

/-- The value word of a Meter Answer: the steps, the clip flag above them, the rest 0. -/
theorem meterAnswer_value (steps : BitVec 16) (clip : Bool) :
    (place steps.toNat 0 ||| placeBit clip 16).extractLsb' 0 16 = steps ∧
    (place steps.toNat 0 ||| placeBit clip 16).getLsbD 16 = clip ∧
    field (place steps.toNat 0 ||| placeBit clip 16) 17 15 = 0 := by
  have hflag : (if clip then 1 else 0) < 2 ^ 1 := markValue_lt clip
  refine ⟨BitVec.eq_of_toNat_eq ?_, ?_, ?_⟩
  · show field _ 0 16 = steps.toNat
    rw [field_or, placeBit, field_place_self steps.isLt (by decide), field_place_low _ (by decide), Nat.or_zero]
  · rw [getLsbD_eq_field, field_or, placeBit, field_place_above steps.isLt (by decide) (by decide),
      field_place_self hflag (by decide)]
    cases clip <;> rfl
  · rw [field_or, placeBit, field_place_above steps.isLt (by decide) (by decide), field_place_above hflag (by decide) (by decide),
      Nat.zero_or]

/-! ### The slot arbiter (R153) -/

section
variable {s : State}

/-- The message in progress goes on with its next word and leaves its class with its last. -/
theorem fillSlot_goesOn {cls : TxClass} {w : Word} {ws : List Word} (h : s.mse.inProgress = some { cls := cls, rest := w :: ws }) :
    fillSlot s = (w, s.setMse { s.mse with inProgress := if ws = [] then none else some { cls := cls, rest := ws } }) := by
  simp [fillSlot, h]

variable (hp : s.mse.inProgress = none)
include hp

theorem fillSlot_begins : fillSlot s = beginNext s := by
  simp [fillSlot, hp]

theorem fillSlot_serves_announce (ha : s.mse.announceWaiting = true) :
    fillSlot s = beginMessage .announce (announceWords s) (s.setMse { s.mse with announceWaiting := false }) := by
  simp [fillSlot_begins hp, beginNext, ha]

variable (ha : s.mse.announceWaiting = false)
include ha

theorem fillSlot_serves_notice {n : Notice} {ns : List Notice} (hn : s.mse.notices = n :: ns) :
    fillSlot s = beginMessage .notice (noticeWords n) (s.setMse { s.mse with notices := ns }) := by
  simp [fillSlot_begins hp, beginNext, ha, hn]

variable (hn : s.mse.notices = [])
include hn

theorem fillSlot_serves_stripAnswer {a : StripAnswer} {as : List StripAnswer} (hs : s.mse.stripAnswers = a :: as) :
    fillSlot s = beginMessage .stripAnswer (stripAnswerWords a) (s.setMse { s.mse with stripAnswers := as }) := by
  simp [fillSlot_begins hp, beginNext, ha, hn, hs]

variable (hs : s.mse.stripAnswers = [])
include hs

theorem fillSlot_serves_meterAnswer {a : MeterAnswer} {as : List MeterAnswer} (hm : s.mse.meterAnswers = a :: as) :
    fillSlot s = beginMessage .meterAnswer (meterAnswerWords a)
      (clearWaitingMark a.strip (s.setMse { s.mse with meterAnswers := as })) := by
  simp [fillSlot_begins hp, beginNext, ha, hn, hs, hm]

theorem fillSlot_idle (hm : s.mse.meterAnswers = []) : fillSlot s = (0, s) := by
  simp [fillSlot_begins hp, beginNext, ha, hn, hs, hm]

end

/-- Settles O53: the words of each message field by field, and the slot by the first class that has one to drive. -/
theorem arbiterServesLowestClassFirst : Obligations.ArbiterServesLowestClassFirst := by
  refine ⟨fun s => ?announce, fun a => ?stripAnswer, fun a => ?meterAnswer, fun n => ?notice,
    fun s => ⟨fun cls w ws h => fillSlot_goesOn h, fun hp => ⟨fun ha => ?first, fun ha n ns hn => ?second,
      fun ha hn a as hs => ?third, fun ha hn hs a as hm => ?fourth, fun ha hn hs hm => fillSlot_idle hp ha hn hs hm⟩⟩⟩
  case announce =>
    obtain ⟨w1, w2, hwords, hbase, hnode, hreset, hrev, hstop, hleft, hzero⟩ := announce_fields s
    refine ⟨w1, w2, hwords, fun h => hbase (by omega), hnode, ?_, hrev, ?_, ?_, hzero⟩
    · rw [hreset]; rfl
    · rw [hstop]; rfl
    · rw [hleft]; rfl
  case stripAnswer => exact ⟨_, by rw [stripAnswerWords, place_halves], stripAnswer_head a.lane⟩
  case meterAnswer =>
    refine ⟨_, ?_, meterAnswer_value (BitVec.ofInt 16 a.steps) a.clip⟩
    have strip : place a.strip.toNat 16 = a.strip ++ 0#16 := by
      rw [← place_halves]
      simp [place]
    rw [meterAnswerWords, strip]
    rfl
  case notice => cases n with | mk c p => cases c <;> rfl
  case first =>
    rw [fillSlot_serves_announce hp ha]
    exact ⟨_, rfl, rfl⟩
  case second =>
    rw [fillSlot_serves_notice hp ha hn]
    exact ⟨_, rfl, rfl⟩
  case third =>
    rw [fillSlot_serves_stripAnswer hp ha hn hs]
    exact ⟨_, rfl, rfl⟩
  case fourth =>
    rw [fillSlot_serves_meterAnswer hp ha hn hs hm]
    exact ⟨_, rfl, rfl, fun e => Table.get_make _ e⟩

end Sys2Proof.Machine
end

section
/-! Meter windows: the readings a window end queues entry by entry, and the samples of a Contributing strobe (R152, R174 to
R176). -/

namespace Sys2Proof.Machine

/-! ### A reading comes to class 3 (R152) -/

section
variable {a : MeterAnswer} {m : Mse}

theorem meterWaits_iff (m : Mse) (strip : BitVec 16) :
    meterWaits m strip = true ↔ ∃ b ∈ m.meterAnswers, b.strip = strip := by
  simp [meterWaits]

theorem meterFits_iff (m : Mse) (strip : BitVec 16) : meterFits m strip = true ↔
    (∃ b ∈ m.meterAnswers, b.strip = strip) ∨ m.meterAnswers.length + inProgressCount m .meterAnswer < 8 := by
  rw [meterFits, Bool.or_eq_true, meterWaits_iff, decide_eq_true_eq]

theorem answersAfter_replaces (h : ∃ b ∈ m.meterAnswers, b.strip = a.strip) :
    answersAfter a m = m.meterAnswers.map fun b => if b.strip = a.strip then a else b :=
  if_pos ((meterWaits_iff m a.strip).mpr h)

theorem answersAfter_joins (h : ¬ ∃ b ∈ m.meterAnswers, b.strip = a.strip)
    (room : m.meterAnswers.length + inProgressCount m .meterAnswer < 8) : answersAfter a m = m.meterAnswers ++ [a] :=
  (if_neg (mt (meterWaits_iff m a.strip).mp h)).trans (if_pos room)

theorem answersAfter_full (h : ¬ ∃ b ∈ m.meterAnswers, b.strip = a.strip)
    (full : ¬ m.meterAnswers.length + inProgressCount m .meterAnswer < 8) : answersAfter a m = m.meterAnswers :=
  (if_neg (mt (meterWaits_iff m a.strip).mp h)).trans (if_neg full)

end

/-! ### A window end, entry by entry (R175) -/

/-- A state with other entries and another class 3: all that the entries of a window end write. -/
def withReadings (s : State) (entries : Table 8 (Option WatchEntry)) (answers : List MeterAnswer) : State :=
  (s.setMse { s.mse with meterAnswers := answers }).setMtu { s.mtu with entries := entries }

theorem windowEntry_free {s : State} {e : EntryIx} (h : s.mtu.entries.get e = none) : windowEntry s e = s := by
  rw [windowEntry, h]

/-- An Occupied entry queues its reading, marks it where class 3 takes it, and starts over at peak 0. -/
theorem windowEntry_occupied {s : State} {e : EntryIx} {w : WatchEntry} (h : s.mtu.entries.get e = some w) :
    windowEntry s e = withReadings s
      (s.mtu.entries.put e (some { w with peak := 0, waiting := w.waiting || meterFits s.mse w.strip }))
      (answersAfter (meterAnswerOf w) s.mse) := by
  rw [windowEntry, h]
  dsimp only
  rw [queueMeterAnswer_eq]
  rfl

theorem windowEntry_other (s : State) {e f : EntryIx} (h : f ≠ e) :
    (windowEntry s e).mtu.entries.get f = s.mtu.entries.get f := by
  cases he : s.mtu.entries.get e with
  | none => rw [windowEntry_free he]
  | some w =>
    rw [windowEntry_occupied he]
    exact Table.get_put_ne _ h _

/-- The window end once the first n entries have been taken. -/
def windowTaken (s : State) (n : Nat) : State :=
  ((List.finRange 8).take n).foldl windowEntry s

theorem finRange_take_succ (e : EntryIx) : (List.finRange 8).take (e.val + 1) = (List.finRange 8).take e.val ++ [e] := by
  revert e
  decide

theorem windowTaken_succ (s : State) (e : EntryIx) :
    windowTaken s (e.val + 1) = windowEntry (windowTaken s e.val) e := by
  rw [windowTaken, finRange_take_succ, List.foldl_append]
  rfl

theorem endWindow_eq (s : State) :
    endWindow s = (windowTaken s 8).setMtu { (windowTaken s 8).mtu with windowCount := 0 } := by
  rw [windowTaken, List.take_of_length_le (by simp)]
  rfl

theorem endWindow_entries (s : State) : (endWindow s).mtu.entries = (windowTaken s 8).mtu.entries := by
  rw [endWindow_eq, State.setMtu_mtu]

theorem endWindow_answers (s : State) : (endWindow s).mse.meterAnswers = (windowTaken s 8).mse.meterAnswers := by
  rw [endWindow_eq, State.setMtu_mse]

/-- A window end writes the entries and class 3 alone, until it sets the count. -/
theorem windowTaken_frame (s : State) (n : Nat) : ∃ entries answers, windowTaken s n = withReadings s entries answers := by
  refine List.foldlRecOn _ _ (motive := fun t => ∃ entries answers, t = withReadings s entries answers) ⟨_, _, rfl⟩ ?_
  rintro _ ⟨entries, answers, rfl⟩ e -
  cases he : (withReadings s entries answers).mtu.entries.get e with
  | none => exact ⟨_, _, windowEntry_free he⟩
  | some w => exact ⟨_, _, windowEntry_occupied he⟩

theorem windowTaken_inProgress (s : State) (n : Nat) (c : TxClass) :
    inProgressCount (windowTaken s n).mse c = inProgressCount s.mse c := by
  obtain ⟨entries, answers, taken⟩ := windowTaken_frame s n
  rw [taken]
  rfl

/-- An entry stands as it was until its turn comes. -/
theorem windowTaken_ahead (s : State) {n : Nat} {e : EntryIx} (h : n ≤ e.val) :
    (windowTaken s n).mtu.entries.get e = s.mtu.entries.get e := by
  induction n with
  | zero => rfl
  | succ n ih =>
    obtain ⟨f, rfl⟩ : ∃ f : EntryIx, n = f.val := ⟨⟨n, by omega⟩, rfl⟩
    rw [windowTaken_succ, windowEntry_other _ (by rintro rfl; omega)]
    exact ih (by omega)

/-- After its turn an entry stands as that turn left it. -/
theorem windowTaken_behind (s : State) (e : EntryIx) {n : Nat} (h : e.val + 1 ≤ n) (hn : n ≤ 8) :
    (windowTaken s n).mtu.entries.get e = (windowTaken s (e.val + 1)).mtu.entries.get e := by
  induction n, h using Nat.le_induction with
  | base => rfl
  | succ n h ih =>
    obtain ⟨f, rfl⟩ : ∃ f : EntryIx, n = f.val := ⟨⟨n, by omega⟩, rfl⟩
    rw [windowTaken_succ, windowEntry_other _ (by rintro rfl; omega)]
    exact ih (by omega)

section
variable {s : State} {e : EntryIx}

theorem windowTaken_answers_free (h : s.mtu.entries.get e = none) :
    (windowTaken s (e.val + 1)).mse.meterAnswers = (windowTaken s e.val).mse.meterAnswers := by
  rw [windowTaken_succ, windowEntry_free ((windowTaken_ahead s (le_refl _)).trans h)]

theorem windowTaken_answers_occupied {w : WatchEntry} (h : s.mtu.entries.get e = some w) :
    (windowTaken s (e.val + 1)).mse.meterAnswers = answersAfter (meterAnswerOf w) (windowTaken s e.val).mse := by
  rw [windowTaken_succ, windowEntry_occupied ((windowTaken_ahead s (le_refl _)).trans h)]
  rfl

/-- What a window end leaves of an entry. -/
theorem endWindow_entry (s : State) (e : EntryIx) : (endWindow s).mtu.entries.get e = (s.mtu.entries.get e).map fun w =>
    { w with peak := 0, waiting := w.waiting || meterFits (windowTaken s e.val).mse w.strip } := by
  have now : (windowTaken s e.val).mtu.entries.get e = s.mtu.entries.get e := windowTaken_ahead s (le_refl _)
  have last : (endWindow s).mtu.entries.get e = (windowEntry (windowTaken s e.val) e).mtu.entries.get e := by
    rw [endWindow_entries, windowTaken_behind s e (by omega) (le_refl 8), windowTaken_succ]
  rw [last, ← now]
  cases he : (windowTaken s e.val).mtu.entries.get e with
  | none => rw [windowEntry_free he, he]; rfl
  | some w =>
    rw [windowEntry_occupied he]
    exact Table.get_put_self _ _ _

/-- A window end by itself, one short of 2048 (R174). -/
theorem exec_windowEnd (hpin : s.resetPin = false) (hst : s.stc.station = .contributing) (hw : s.mtu.windowCount = 2047) :
    exec .windowEnd s = .next (endWindow s) := by
  show Host.Outcome.next _ = _
  rw [if_pos (by simp [hpin, hst, hw])]

end

/-- A window end writes the Meter Unit and class 3, and of the Meter Unit the entries and the count. -/
theorem endWindow_frame (s : State) : (endWindow s).mtu.windowCount = 0 ∧ (endWindow s).mtu.pointer = s.mtu.pointer ∧
    endWindow s = { s with
      mtu := (endWindow s).mtu, mse := { s.mse with meterAnswers := (endWindow s).mse.meterAnswers } } := by
  obtain ⟨entries, answers, taken⟩ := windowTaken_frame s 8
  rw [endWindow_eq, taken]
  exact ⟨rfl, rfl, rfl⟩

/-! ### A window end with class 3 empty -/

/-- No two entries hold one strip (R171). -/
def StripsDistinct (entries : Table 8 (Option WatchEntry)) : Prop :=
  ∀ e f w x, entries.get e = some w → entries.get f = some x → w.strip = x.strip → e = f

/-- Entries changed in place, each with its strip kept, are distinct where they were. -/
theorem StripsDistinct.map {t u : Table 8 (Option WatchEntry)} (distinct : StripsDistinct t) {g : WatchEntry → WatchEntry}
    (hu : ∀ e, u.get e = (t.get e).map g) (hg : ∀ w, (g w).strip = w.strip) : StripsDistinct u := by
  intro e f w x he hf hstrip
  rw [hu] at he hf
  obtain ⟨w', hw, rfl⟩ := Option.map_eq_some_iff.mp he
  obtain ⟨x', hx, rfl⟩ := Option.map_eq_some_iff.mp hf
  exact distinct e f w' x' hw hx (((hg w').symm.trans hstrip).trans (hg x'))

/-- The readings of the first n entries. -/
def readings (s : State) (n : Nat) : List MeterAnswer :=
  ((List.finRange 8).take n).filterMap fun e => (s.mtu.entries.get e).map meterAnswerOf

theorem readings_length (s : State) (n : Nat) : (readings s n).length ≤ n :=
  (List.length_filterMap_le _ _).trans (List.length_take_le _ _)

theorem readings_succ (s : State) (e : EntryIx) :
    readings s (e.val + 1) = readings s e.val ++ ((s.mtu.entries.get e).map meterAnswerOf).toList := by
  rw [readings, finRange_take_succ e, List.filterMap_append, readings]
  cases he : s.mtu.entries.get e <;> simp [he]

/-- Among the readings before an entry none is of its strip. -/
theorem readings_other {s : State} (distinct : StripsDistinct s.mtu.entries) {e : EntryIx} {w : WatchEntry}
    (h : s.mtu.entries.get e = some w) : ¬ ∃ a ∈ readings s e.val, a.strip = w.strip := by
  rintro ⟨a, ha, hstrip⟩
  obtain ⟨f, hf, hfa⟩ := List.mem_filterMap.mp ha
  obtain ⟨x, hx, rfl⟩ := Option.map_eq_some_iff.mp hfa
  have before : f.val < e.val := by
    obtain ⟨i, hi, rfl⟩ := List.mem_take_iff_getElem.mp hf
    simpa using (lt_min_iff.mp hi).1
  have same : f = e := distinct f e x w hx h hstrip
  exact absurd before (by simp [same])

section
variable {s : State} (distinct : StripsDistinct s.mtu.entries) (hempty : s.mse.meterAnswers = [])
  (hfree : inProgressCount s.mse .meterAnswer = 0)
include distinct hempty hfree

/-- With class 3 empty each reading in its turn joins the end. -/
theorem windowTaken_readings {n : Nat} (hn : n ≤ 8) : (windowTaken s n).mse.meterAnswers = readings s n := by
  induction n with
  | zero => exact hempty
  | succ n ih =>
    have before := ih (by omega)
    obtain ⟨e, rfl⟩ : ∃ e : EntryIx, n = e.val := ⟨⟨n, by omega⟩, rfl⟩
    rw [readings_succ]
    cases he : s.mtu.entries.get e with
    | none => simp [windowTaken_answers_free he, before]
    | some w =>
      have unread : ¬ ∃ a ∈ (windowTaken s e.val).mse.meterAnswers, a.strip = (meterAnswerOf w).strip := by
        rw [before]
        exact readings_other distinct he
      have room : (windowTaken s e.val).mse.meterAnswers.length + inProgressCount (windowTaken s e.val).mse .meterAnswer < 8 := by
        have := readings_length s e.val
        rw [before, windowTaken_inProgress, hfree]
        omega
      rw [windowTaken_answers_occupied he, answersAfter_joins unread room, before]
      rfl

/-- With class 3 empty every reading finds room. -/
theorem windowTaken_fits (e : EntryIx) (strip : BitVec 16) : meterFits (windowTaken s e.val).mse strip = true := by
  have room := readings_length s e.val
  refine (meterFits_iff _ _).mpr (.inr ?_)
  rw [windowTaken_readings distinct hempty hfree e.isLt.le, windowTaken_inProgress, hfree]
  omega

theorem endWindow_readings : (endWindow s).mse.meterAnswers =
    (List.finRange 8).filterMap fun e => (s.mtu.entries.get e).map meterAnswerOf := by
  rw [endWindow_answers, windowTaken_readings distinct hempty hfree (le_refl 8), readings, List.take_of_length_le (by simp)]

end

/-! ### The samples of a Contributing frame (R174) -/

/-- An entry's strip, channel and peak: all of it but its mark. -/
def WatchEntry.measured (w : WatchEntry) : BitVec 16 × Chan × Nat :=
  (w.strip, w.channel, w.peak)

/-- The larger of an entry's peak and the frame's meter sample of its channel. -/
def peakReached (s : State) (w : WatchEntry) : Nat :=
  max w.peak (meterMagnitude ((pathAt s w.channel).history.get 0) (pathAt s w.channel).meterCoef)

/-- An entry with the frame's sample taken. -/
def withSample (s : State) (w : WatchEntry) : WatchEntry :=
  { w with peak := peakReached s w }

theorem sampleEntry_eq (s : State) (w : WatchEntry) : sampleEntry s w = withSample s w := by
  unfold sampleEntry withSample peakReached
  dsimp only
  split
  · next h => rw [max_eq_right h.le]
  · next h => rw [max_eq_left (Nat.not_lt.mp h)]

/-- The samples of a frame taken and the frame counted, before the window ends where it is due. -/
def sampled (s : State) : State :=
  s.setMtu { s.mtu with
    windowCount := s.mtu.windowCount + 1
    entries := Table.make fun e => (s.mtu.entries.get e).map (sampleEntry s) }

theorem meterFrame_eq (s : State) :
    meterFrame s = if s.mtu.windowCount + 1 = 2048 then endWindow (sampled s) else sampled s := rfl

theorem sampled_entry (s : State) (e : EntryIx) : (sampled s).mtu.entries.get e =
    (s.mtu.entries.get e).map (withSample s) := by
  have pointwise : sampleEntry s = withSample s := funext (sampleEntry_eq s)
  rw [← pointwise]
  exact Table.get_make _ e

theorem meterFrame_counts (s : State) : (meterFrame s).mtu.pointer = s.mtu.pointer ∧
    (meterFrame s).mtu.windowCount = if s.mtu.windowCount + 1 = 2048 then 0 else s.mtu.windowCount + 1 := by
  rw [meterFrame_eq]
  split
  · obtain ⟨count, pointer, -⟩ := endWindow_frame (sampled s)
    exact ⟨pointer, count⟩
  · exact ⟨rfl, rfl⟩

/-- A frame's peaks: the larger of peak and sample, or 0 where the window ends in it. -/
theorem meterFrame_measured (s : State) (e : EntryIx) : ((meterFrame s).mtu.entries.get e).map WatchEntry.measured =
    (s.mtu.entries.get e).map fun w =>
      (w.strip, w.channel, if s.mtu.windowCount + 1 = 2048 then 0 else peakReached s w) := by
  rw [meterFrame_eq]
  split
  · rw [endWindow_entry, sampled_entry, Option.map_map, Option.map_map]
    rfl
  · rw [sampled_entry, Option.map_map]
    rfl

/-- The readings of a frame in which the window ends, with class 3 empty. -/
theorem meterFrame_readings {s : State} (due : s.mtu.windowCount + 1 = 2048) (distinct : StripsDistinct s.mtu.entries)
    (hempty : s.mse.meterAnswers = []) (hfree : inProgressCount s.mse .meterAnswer = 0) :
    (meterFrame s).mse.meterAnswers = (List.finRange 8).filterMap fun e =>
      (s.mtu.entries.get e).map fun w => meterAnswerOf (withSample s w) := by
  have distinct' : StripsDistinct (sampled s).mtu.entries := distinct.map (sampled_entry s) fun _ => rfl
  rw [meterFrame_eq, if_pos due, endWindow_readings distinct' hempty hfree]
  simp only [sampled_entry, Option.map_map]
  rfl

/-! ### The meters through a strobe (R27, R153, R174, R175) -/

theorem ownWordsEnter_mtu (s : State) : (ownWordsEnter s).mtu = s.mtu := by simp

/-- Of the Meter Unit the marks alone differ. -/
def MarksAlone (s t : State) : Prop :=
  t.mtu.pointer = s.mtu.pointer ∧ t.mtu.windowCount = s.mtu.windowCount ∧
    ∀ e, (t.mtu.entries.get e).map WatchEntry.measured = (s.mtu.entries.get e).map WatchEntry.measured

theorem MarksAlone.of_mtu {s t : State} (h : t.mtu = s.mtu) : MarksAlone s t := by
  simp [MarksAlone, h]

theorem MarksAlone.trans {s t u : State} (h : MarksAlone s t) (k : MarksAlone t u) : MarksAlone s u := by
  obtain ⟨pointer, count, entry⟩ := h
  obtain ⟨pointer', count', entry'⟩ := k
  exact ⟨pointer'.trans pointer, count'.trans count, fun e => (entry' e).trans (entry e)⟩

theorem marksAlone_clearWaitingMark (strip : BitVec 16) (s : State) : MarksAlone s (clearWaitingMark strip s) := by
  refine ⟨rfl, rfl, fun e => ?_⟩
  have entry : (clearWaitingMark strip s).mtu.entries.get e =
      (s.mtu.entries.get e).map fun w => if w.strip = strip then { w with waiting := false } else w := Table.get_make _ e
  rw [entry, Option.map_map]
  refine congrArg (Option.map · (s.mtu.entries.get e)) (funext fun w => ?_)
  rw [Function.comp_apply]
  split <;> rfl

/-- Of the Meter Unit a slot writes marks alone (R175). -/
theorem marksAlone_fillSlot (s : State) : MarksAlone s (fillSlot s).2 := by
  refine fillSlot_cases (P := fun out => MarksAlone s out.2) s (fun _ _ _ _ => .of_mtu rfl) fun _ =>
    beginNext_cases (P := fun out => MarksAlone s out.2) s (fun _ => .of_mtu (by simp)) (fun _ _ _ => .of_mtu (by simp))
      (fun _ _ _ => .of_mtu (by simp)) (fun a as _ => ?head) (.of_mtu rfl)
  case head =>
    have taken : MarksAlone s (s.setMse { s.mse with meterAnswers := as }) := .of_mtu rfl
    exact (taken.trans (marksAlone_clearWaitingMark a.strip _)).trans (.of_mtu (by simp))

/-- An entry as a strobe's frame finds it: at the entry to Contributing its peak is 0 (R174). -/
def atEntry (s : State) (w : WatchEntry) : WatchEntry :=
  { w with peak := if s.stc.station = .joining then 0 else w.peak }

/-- Two slots that a message in progress fills leave class 3. -/
theorem fillSlots_meterAnswers {s : State} {cls : TxClass} {rest : List Word}
    (h : s.mse.inProgress = some { cls := cls, rest := rest }) (hl : 2 ≤ rest.length) :
    (fillSlot (fillSlot s).2).2.mse.meterAnswers = s.mse.meterAnswers := by
  match rest, hl with
  | a :: b :: ws, _ =>
    rw [fillSlot_goesOn h, fillSlot_goesOn (cls := cls) (w := b) (ws := ws) rfl]
    rfl

section
variable (p : Position) (inputs : Table 48 Sample) {s : State}
  (h : s.stc.station = .contributing ∨ s.stc.station = .joining ∧ s.stc.joiningComplete = true)
include h

/-- The meters the frame's samples are taken with: at the entry to Contributing the count and the peaks are 0 (R174). -/
theorem formedAtStrobe_meters : (formedAtStrobe p inputs s).mtu.pointer = s.mtu.pointer ∧
    (formedAtStrobe p inputs s).mtu.windowCount = (if s.stc.station = .joining then 0 else s.mtu.windowCount) ∧
    ∀ e, (formedAtStrobe p inputs s).mtu.entries.get e = (s.mtu.entries.get e).map (atEntry s) := by
  have formed : (formedAtStrobe p inputs s).mtu = (stationAtStrobe (takeStrobe p s)).mtu := by simp [formedAtStrobe]
  rw [formed]
  rcases h with hs | ⟨hs, hj⟩
  · have kept : atEntry s = id := by simp [funext_iff, atEntry, hs]
    simp [stationAtStrobe, hs, kept]
  · have zeroed : atEntry s = fun w => { w with peak := 0 } := by simp [funext_iff, atEntry, hs]
    rw [stationAtStrobe_enters p hs hj]
    simp [enterContributing, startMetering, queueAnnounce, hs, zeroed]

/-- The Meter Unit of the frame stands but for marks, and class 3 is what the two slots leave of it. -/
theorem strobeTaken_meters : MarksAlone (slotsFilledFrom p inputs s) (strobeTaken p inputs s) ∧
    (strobeTaken p inputs s).mse = (fillSlot (fillSlot (slotsFilledFrom p inputs s)).2).2.mse := by
  have station := formedAtStrobe_contributing p inputs h
  have slots : MarksAlone (slotsFilledFrom p inputs s) (fillSlot (fillSlot (slotsFilledFrom p inputs s)).2).2 :=
    (marksAlone_fillSlot _).trans (marksAlone_fillSlot _)
  rw [strobeTaken_eq p inputs s (by rcases h with h | ⟨h, -⟩ <;> simp [h])]
  exact ⟨slots.trans (.of_mtu (by simp [openByStation, station, openContributing, slotsFilledFrom])),
    (openByStation_contributing s station).1⟩

/-- The samples are of the paths that the strobe leaves. -/
theorem peakReached_strobeTaken (w : WatchEntry) :
    peakReached (ownWordsEnter (formedAtStrobe p inputs s)) w = peakReached (strobeTaken p inputs s) w := by
  have paths : (strobeTaken p inputs s).mxd.channels = (ownWordsEnter (formedAtStrobe p inputs s)).mxd.channels := by
    rw [strobeTaken_eq p inputs s (by rcases h with h | ⟨h, -⟩ <;> simp [h]), (openByStation_mxd _ _).1]
    simp [ownWordsEnter, openTotals]
  simp only [peakReached, pathAt, paths]

/-- The pointer stands, and the count is the frames counted since the entry, or 0 where the window ends. -/
theorem strobeTaken_meterCounts :
    let count := if s.stc.station = .joining then 0 else s.mtu.windowCount
    (strobeTaken p inputs s).mtu.pointer = s.mtu.pointer ∧
    (strobeTaken p inputs s).mtu.windowCount = if count + 1 = 2048 then 0 else count + 1 := by
  intro count
  obtain ⟨formedPointer, formedCount, -⟩ := formedAtStrobe_meters p inputs h
  obtain ⟨framePointer, frameCount⟩ := meterFrame_counts (ownWordsEnter (formedAtStrobe p inputs s))
  obtain ⟨⟨pointer, counted, -⟩, -⟩ := strobeTaken_meters p inputs h
  rw [ownWordsEnter_mtu] at framePointer
  rw [ownWordsEnter_mtu, formedCount] at frameCount
  exact ⟨(pointer.trans framePointer).trans formedPointer, counted.trans frameCount⟩

/-- What a strobe leaves of each entry beside its mark. -/
theorem strobeTaken_measured (e : EntryIx) :
    let count := if s.stc.station = .joining then 0 else s.mtu.windowCount
    ((strobeTaken p inputs s).mtu.entries.get e).map WatchEntry.measured =
      (s.mtu.entries.get e).map fun w => (w.strip, w.channel, if count + 1 = 2048 then 0
        else peakReached (strobeTaken p inputs s) (atEntry s w)) := by
  intro count
  obtain ⟨-, formedCount, formedEntry⟩ := formedAtStrobe_meters p inputs h
  obtain ⟨⟨-, -, entry⟩, -⟩ := strobeTaken_meters p inputs h
  have measured := meterFrame_measured (ownWordsEnter (formedAtStrobe p inputs s)) e
  simp only [peakReached_strobeTaken p inputs h, ownWordsEnter_mtu, formedCount, formedEntry, Option.map_map] at measured
  exact (entry e).trans measured

/-- The readings of a strobe in which the window ends, with class 3 empty and the slots taken by a message of another class. -/
theorem strobeTaken_readings (due : (if s.stc.station = .joining then 0 else s.mtu.windowCount) + 1 = 2048)
    (distinct : StripsDistinct s.mtu.entries) (hempty : s.mse.meterAnswers = []) {cls : TxClass} {rest : List Word}
    (hp : s.mse.inProgress = some { cls := cls, rest := rest }) (hcls : cls ≠ .meterAnswer) (hl : 2 ≤ rest.length) :
    (strobeTaken p inputs s).mse.meterAnswers = (List.finRange 8).filterMap fun e => (s.mtu.entries.get e).map fun w =>
      meterAnswerOf (withSample (strobeTaken p inputs s) (atEntry s w)) := by
  obtain ⟨-, formedCount, formedEntry⟩ := formedAtStrobe_meters p inputs h
  have hi : s.stc.station ≠ .isolated := by rcases h with h | ⟨h, -⟩ <;> simp [h]
  obtain ⟨-, -, -, formedAnswers, -⟩ := formedAtStrobe_classes p inputs hi
  obtain ⟨-, -, formedProgress⟩ := formedAtStrobe_station p inputs s
  rw [if_neg hi, hp] at formedProgress
  have due' : (ownWordsEnter (formedAtStrobe p inputs s)).mtu.windowCount + 1 = 2048 := by
    rw [ownWordsEnter_mtu, formedCount, due]
  have distinct' : StripsDistinct (ownWordsEnter (formedAtStrobe p inputs s)).mtu.entries := by
    rw [ownWordsEnter_mtu]
    exact distinct.map formedEntry fun _ => rfl
  have readings := meterFrame_readings due' distinct' (by simp [formedAnswers, hempty])
    (by simp [inProgressCount, formedProgress, hcls])
  have filled : (strobeTaken p inputs s).mse.meterAnswers = (slotsFilledFrom p inputs s).mse.meterAnswers := by
    obtain ⟨-, classes⟩ := strobeTaken_meters p inputs h
    rw [classes]
    exact fillSlots_meterAnswers (by simpa [slotsFilledFrom] using formedProgress) hl
  simp only [withSample, peakReached_strobeTaken p inputs h, ownWordsEnter_mtu, formedEntry, Option.map_map] at readings
  exact filled.trans readings

end

/-- Settles O57: a window end entry by entry, with class 3 empty and not, and the samples of a Contributing strobe. -/
theorem windowEndQueuesReadings : Obligations.WindowEndQueuesReadings := by
  refine ⟨fun s hpin hst hw ok hempty hfree => ?alone, fun s hpin hst hw => ?waiting, fun p inputs s hpin h => ?strobe⟩
  case alone =>
    obtain ⟨-, distinct, -⟩ := ok
    obtain ⟨count, pointer, frame⟩ := endWindow_frame s
    refine ⟨endWindow s, exec_windowEnd hpin hst hw, endWindow_readings distinct hempty hfree, fun e => ?_, count, pointer,
      frame⟩
    rw [endWindow_entry]
    simp only [windowTaken_fits distinct hempty hfree, Bool.or_true]
  case waiting =>
    obtain ⟨count, pointer, frame⟩ := endWindow_frame s
    refine ⟨endWindow s, exec_windowEnd hpin hst hw, count, pointer, frame, fun n => (windowTaken s n).mse.meterAnswers, rfl,
      (endWindow_answers s).symm, fun e => ⟨fun he => ⟨windowTaken_answers_free he, by rw [endWindow_entry, he]; rfl⟩,
        fun w he => ?_⟩⟩
    have fits := meterFits_iff (windowTaken s e.val).mse w.strip
    dsimp only
    rw [← windowTaken_inProgress s e.val .meterAnswer, windowTaken_answers_occupied he, endWindow_entry, he, Option.map_some]
    refine ⟨fun hwait => ⟨answersAfter_replaces hwait, ?_⟩, fun hwait room => ⟨answersAfter_joins hwait room, ?_⟩,
      fun hwait full => ⟨answersAfter_full hwait full, ?_⟩⟩
    · rw [fits.mpr (.inl hwait), Bool.or_true]
    · rw [fits.mpr (.inr room), Bool.or_true]
    · rw [Bool.eq_false_iff.mpr (mt fits.mp (not_or.mpr ⟨hwait, full⟩)), Bool.or_false]
  case strobe =>
    intro count
    obtain ⟨pointer, counted⟩ := strobeTaken_meterCounts p inputs h
    refine ⟨strobeTaken p inputs s, exec_strobe p inputs s hpin, pointer, strobeTaken_measured p inputs h, counted,
      fun due ok hempty cls rest hp hcls hl => ?readings⟩
    case readings =>
      obtain ⟨-, distinct, -⟩ := ok
      exact strobeTaken_readings p inputs h due distinct hempty hp hcls hl

end Sys2Proof.Machine
end

section
/-! Bound sets: what is stored of a collection, and what opens, counts down, overflows and closes a set (R155 to R161). -/

namespace Sys2Proof.Machine

/-! ### Storing a collection (R155) -/

theorem collectionAt_setCollection (s : State) (lane n : LaneIx) (b : BindCollection) :
    collectionAt (setCollection s lane b) n = if n = lane then b else collectionAt s n :=
  Table.get_put _ _ _ _

/-- Of two collections stored for a lane the second stands. -/
theorem setCollection_setCollection (s : State) (lane : LaneIx) (a b : BindCollection) :
    setCollection (setCollection s lane a) lane b = setCollection s lane b := by
  simp [setCollection, State.setChs, Table.put]

/-! ### Opening a set (R156) -/

/-- A Bind writes the lane's collection alone: a new one, or the open one with its count. -/
theorem openSet_eq (lane : LaneIx) (count : Nat) (s : State) : openSet lane count s = setCollection s lane
    (if (collectionAt s lane).remaining = 0 then { remaining := count, held := [], stamp := .undetermined }
      else { collectionAt s lane with remaining := count }) := by
  unfold openSet
  dsimp only
  by_cases none_open : (collectionAt s lane).remaining = 0
  · rw [if_neg (by omega), if_pos none_open]
    rfl
  · rw [if_pos (by omega), if_neg none_open]

/-- Settles O27: the Bind is taken as the opening of its lane's set, which stores that lane's collection alone. -/
theorem bindOpensOrRestartsSet : Obligations.BindOpensOrRestartsSet := by
  intro lane count s hpin ht hlow hhigh
  have opened : takeBind lane count s = openSet lane count.toNat s := by
    rw [takeBind, if_pos ⟨hlow, hhigh⟩, if_pos ht]
  refine ⟨_, next_unlessPinned hpin (opened.trans (openSet_eq lane _ s)), ?own, fun n hn => ?others, rfl⟩
  case own => rw [collectionAt_setCollection, if_pos rfl]
  case others => rw [collectionAt_setCollection, if_neg hn]

/-! ### Closing a set (R159) -/

/-- A collection placed whole as its lane's set: its members as one unit under its stamp, with no set open after it. -/
def placeSet (lane : LaneIx) (col : BindCollection) (s : State) : State :=
  placeChanges (col.held.map fun c => { change := c, lane := lane }) (placingStamp col.stamp)
    (setCollection s lane BindCollection.cleared)

theorem closeSet_eq (lane : LaneIx) (s : State) : closeSet lane s = placeSet lane (collectionAt s lane) s := rfl

/-- A set closes with the collection that was stored for its lane last. -/
theorem closeSet_setCollection (lane : LaneIx) (col : BindCollection) (s : State) :
    closeSet lane (setCollection s lane col) = placeSet lane col s := by
  rw [closeSet_eq, collectionAt_setCollection, if_pos rfl, placeSet, setCollection_setCollection, placeSet]

/-- A set with members is placed as one unit under its stamp. -/
theorem placedAs_placeSet {col : BindCollection} (h : col.held ≠ []) (lane : LaneIx) (s : State) :
    PlacedAs (col.held.map fun c => { change := c, lane := lane }) (placingStamp col.stamp)
      (setCollection s lane BindCollection.cleared) (placeSet lane col s) := by
  obtain ⟨c, cs, held⟩ := List.exists_cons_of_ne_nil h
  rw [placeSet, held, List.map_cons]
  exact placedAs_placeChanges _ _ _ _

/-- A set with no members places nothing. -/
theorem placeSet_empty {col : BindCollection} (h : col.held = []) (lane : LaneIx) (s : State) :
    placeSet lane col s = setCollection s lane BindCollection.cleared := by
  rw [placeSet, h]
  rfl

/-! ### Counting (R157, R158) -/

theorem fixStamp_of_fixed {st : SetStamp} (h : st ≠ .undetermined) (stamp : Option Position) : fixStamp st stamp = st := by
  cases st with
  | undetermined => exact absurd rfl h
  | absent | stamped => rfl

/-- A counted message leaves no stamp undetermined. -/
theorem fixStamp_ne_undetermined (st : SetStamp) (stamp : Option Position) : fixStamp st stamp ≠ .undetermined := by
  cases st with
  | undetermined => cases stamp <;> exact nofun
  | absent | stamped => exact nofun

/-- A closing set is placed under the stamp it had, or under that of the message that closes it. -/
theorem placingStamp_fixStamp (st : SetStamp) (stamp : Option Position) :
    placingStamp (fixStamp st stamp) = if st = .undetermined then stamp else placingStamp st := by
  by_cases first : st = .undetermined
  · rw [if_pos first, first]
    cases stamp <;> rfl
  · rw [if_neg first, fixStamp_of_fixed first]

theorem countDown_open {col : BindCollection} (h : 2 ≤ col.remaining) (lane : LaneIx) (s : State) :
    countDown lane col s = setCollection s lane { col with remaining := col.remaining - 1 } :=
  if_neg (by omega)

theorem countDown_last {col : BindCollection} (h : col.remaining = 1) (lane : LaneIx) (s : State) :
    countDown lane col s = placeSet lane col s :=
  (if_pos (by omega)).trans (closeSet_setCollection lane _ s)

/-- The lane's collection with the stamp that a message counted in its set fixes. -/
def stampedCollection (lane : LaneIx) (stamp : Option Position) (s : State) : BindCollection :=
  { collectionAt s lane with stamp := fixStamp (collectionAt s lane).stamp stamp }

/-- The lane's collection with one more change held, under the stamp the change's message fixes. -/
def grownCollection (lane : LaneIx) (change : Change) (stamp : Option Position) (s : State) : BindCollection :=
  { stampedCollection lane stamp s with held := (collectionAt s lane).held ++ [change] }

section
variable {lane : LaneIx} {s : State} (stamp : Option Position)

/-- A message this engine does not act on is counted and not held. -/
theorem takeChange_unheld (h : 1 ≤ (collectionAt s lane).remaining) :
    takeChange lane none stamp s = countDown lane (stampedCollection lane stamp s) s :=
  if_pos h

/-- A change joins the members where the collection has room. -/
theorem takeChange_held (h : 1 ≤ (collectionAt s lane).remaining) (room : (collectionAt s lane).held.length < 16)
    (change : Change) :
    takeChange lane (some change) stamp s = countDown lane (grownCollection lane change stamp s) s :=
  (if_pos h).trans (if_neg (Nat.not_le.mpr room))

/-- A change that finds no room overflows the set: the members are placed, then the change by itself. -/
theorem takeChange_overflow (h : 1 ≤ (collectionAt s lane).remaining) (full : 16 ≤ (collectionAt s lane).held.length)
    (change : Change) :
    takeChange lane (some change) stamp s = placeChanges [{ change := change, lane := lane }] stamp
      (placeSet lane (stampedCollection lane stamp s) s) :=
  ((if_pos h).trans (if_pos full)).trans (congrArg _ (closeSet_setCollection lane _ s))

/-! ### The messages that are counted (R144) -/

/-- A command that brings a change hands it to the Change Scheduler. -/
theorem exec_delivers {m : Instr} {change : Change} (hpin : s.resetPin = false) (ht : takesChanges s = true)
    (h : Delivers s lane stamp m change) : exec m s = .next (takeChange lane (some change) stamp s) := by
  obtain ⟨strip, param, w, c, hc, rfl, rfl⟩ | ⟨gf, v, rfl, rfl⟩ := h
  · refine next_unlessPinned hpin ?_
    rw [takeStripSet, if_pos ht, stripChannel_eq hc]
    rfl
  · exact next_unlessPinned hpin (if_pos ht)

/-- A STRIP_SET of a strip out of range hands on no change. -/
theorem exec_stripSet_outOfRange {strip : BitVec 16} (hpin : s.resetPin = false) (ht : takesChanges s = true)
    (h : strip.toNat < s.stc.stripBase ∨ s.stc.stripBase + 48 ≤ strip.toNat) (param : BitVec 16) (w : Word) :
    exec (.stripSet lane strip param w stamp) s = .next (takeChange lane none stamp s) := by
  refine next_unlessPinned hpin ?_
  rw [takeStripSet, if_pos ht, stripChannel_eq_none h]
  rfl

/-- SET_CLOSE closes the set where one member is to come or 16 are held. -/
theorem exec_setClose (hpin : s.resetPin = false) (ht : takesChanges s = true)
    (h : (collectionAt s lane).remaining = 1 ∨
      0 < (collectionAt s lane).remaining ∧ (collectionAt s lane).held.length = 16) :
    exec (.setClose lane) s = .next (placeSet lane (collectionAt s lane) s) := by
  have due : closeDue lane s = true := by
    unfold closeDue
    rcases h with last | ⟨counting, full⟩
    · simp [last]
    · simp [counting, full]
  show Host.Outcome.next (if _ then _ else _) = _
  rw [hpin, ht, due]
  rfl

end

/-- Settles O28: a counted message by the room it finds, and a full collection overflowed. -/
theorem setCountsMembers : Obligations.SetCountsMembers := by
  intro lane stamp s hpin ht hopen col fixed
  have fixes : fixed = fixStamp col.stamp stamp := by
    by_cases first : col.stamp = .undetermined
    · simp only [fixed, if_pos first, first]
      cases stamp <;> rfl
    · simp only [fixed, if_neg first, fixStamp_of_fixed first]
  rw [fixes]
  let stamped := stampedCollection lane stamp s
  refine ⟨fun m change hm => ⟨fun more room => ?held, fun full => ?overflow⟩, fun strip param w hout more => ?unheld⟩
  case held =>
    rw [exec_delivers stamp hpin ht hm, takeChange_held stamp hopen room]
    exact congrArg _ (countDown_open (col := grownCollection lane change stamp s) more lane s)
  case overflow =>
    have members : stamped.held ≠ [] := List.ne_nil_of_length_pos (full ▸ by decide)
    refine ⟨placeSet lane stamped s, _, ?_, placedAs_placeSet members lane s, placedAs_placeChanges _ _ _ _⟩
    rw [exec_delivers stamp hpin ht hm, takeChange_overflow stamp hopen full.ge]
  case unheld =>
    rw [exec_stripSet_outOfRange stamp hpin ht hout, takeChange_unheld stamp hopen]
    exact congrArg _ (countDown_open (col := stamped) more lane s)

/-- Settles O29: the last member, or SET_CLOSE, places the collection whole. -/
theorem setClosePlacesMembersWhole : Obligations.SetClosePlacesMembersWhole := by
  intro lane s hpin ht col setStamp unit closed
  refine ⟨fun last stamp => ?last, fun due => ?alone⟩
  case last =>
    let stamped := stampedCollection lane stamp s
    have under : setStamp stamp = placingStamp stamped.stamp := (placingStamp_fixStamp col.stamp stamp).symm
    rw [under]
    refine ⟨fun room m change hm => ?held, fun strip param w hout => ?unheld⟩
    case held =>
      let grown := grownCollection lane change stamp s
      have members : grown.held ≠ [] := List.append_ne_nil_of_right_ne_nil _ (List.cons_ne_nil _ _)
      refine ⟨placeSet lane grown s, ?_, placedAs_placeSet members lane s⟩
      rw [exec_delivers stamp hpin ht hm, takeChange_held stamp last.ge room]
      exact congrArg _ (countDown_last (col := grown) last lane s)
    case unheld =>
      refine ⟨placeSet lane stamped s, ?_, fun members => placedAs_placeSet (col := stamped) members lane s,
        fun empty => placeSet_empty (col := stamped) empty lane s⟩
      rw [exec_stripSet_outOfRange stamp hpin ht hout, takeChange_unheld stamp last.ge]
      exact congrArg _ (countDown_last (col := stamped) last lane s)
  case alone =>
    exact ⟨placeSet lane col s, exec_setClose hpin ht due, fun members => placedAs_placeSet members lane s,
      fun empty => placeSet_empty empty lane s⟩

end Sys2Proof.Machine
end

section
/-! The changes of a strobe: what it leaves of the queue and the Due List, and the settings the changes make (R166 to R169). -/

namespace Sys2Proof.Machine

/-- The queue after the flush that a Locate of either kind makes (R168). -/
def queueAtStrobe (p : Position) (s : State) : List QueueEntry :=
  if s.rfr.known = true ∧ (p = s.rfr.position ∨ p.toNat = s.rfr.position.toNat + 1) then s.chs.queue else []

/-- The flush of a strobe writes the queue alone, and makes it the one after the flush. -/
theorem flushAtStrobe_chs (p : Position) {s r : State} (h : r.chs = s.chs) :
    (if flushes (classify s.rfr p) then flushQueue r else r).chs = { s.chs with queue := queueAtStrobe p s } := by
  rw [flushes_classify, queueAtStrobe]
  by_cases continues : s.rfr.known = true ∧ (p = s.rfr.position ∨ p.toNat = s.rfr.position.toNat + 1)
  · simp [continues, h]
  · simp [continues, flushQueue, h]

/-- The applications remove the ripe entries and the whole Due List. -/
theorem applyDueChanges_chs (s : State) : (applyDueChanges s).chs = { s.chs with
    queue := s.chs.queue.dropWhile fun e => decide (e.target.toNat ≤ s.rfr.position.toNat), due := [] } := by
  simp [applyDueChanges]

/-- Where no change is taken the Change Scheduler is flushed at most. -/
theorem changesAtStrobe_chs_idle (p : Position) {s r : State} (h : r.chs = s.chs) (idle : takesChanges r = false) :
    (changesAtStrobe (classify s.rfr p) r).chs = { s.chs with queue := queueAtStrobe p s } := by
  rw [changesAtStrobe_of_idle _ idle, flushAtStrobe_chs p h]

/-- Where changes are taken the ripe entries and the Due List are gone after them. -/
theorem changesAtStrobe_chs_takes {p : Position} {s r : State} (h : r.chs = s.chs) (hp : r.rfr.position = p)
    (takes : takesChanges r = true) : (changesAtStrobe (classify s.rfr p) r).chs = { s.chs with
      queue := (queueAtStrobe p s).dropWhile fun e => decide (e.target.toNat ≤ p.toNat), due := [] } := by
  have flushed := flushAtStrobe_chs p h
  have position : (if flushes (classify s.rfr p) then flushQueue r else r).rfr.position = p := by
    split <;> simp [hp]
  have takes' : takesChanges (if flushes (classify s.rfr p) then flushQueue r else r) = true := by
    rw [← takes]
    exact takesChanges_congr (by split <;> simp)
  unfold changesAtStrobe
  dsimp only
  rw [if_pos takes', applyDueChanges_chs, flushed, position]

/-! ### The Change Scheduler after a strobe -/

/-- But at the end of Isolated the change of station holds the changes, and whether they are taken (R25, R27). -/
theorem stationAtStrobe_holds_changes {s : State} (hi : s.stc.station ≠ .isolated) :
    (stationAtStrobe s).chs = s.chs ∧ takesChanges (stationAtStrobe s) = takesChanges s := by
  unfold stationAtStrobe
  split
  · next h => exact absurd h hi
  · next h => simp [takesChanges, h]
  · next h => split <;> simp [takesChanges, h, enterContributing, startMetering, queueAnnounce]
  all_goals exact ⟨rfl, rfl⟩

section
variable (p : Position) (inputs : Table 48 Sample) {s : State}

/-- Outside Booting the strobe's changes are the last to write the Change Scheduler. -/
theorem strobeTaken_chs (hb : s.stc.station ≠ .booting) : (strobeTaken p inputs s).chs = (changedAtStrobe p s).chs := by
  rw [strobeTaken_eq p inputs s hb]
  simp [formedAtStrobe, changedAtStrobe]

/-- The end of Isolated clears the Change Scheduler (R32). -/
theorem strobeTaken_chs_isolated (hi : s.stc.station = .isolated) : (strobeTaken p inputs s).chs = Chs.cleared := by
  have cleared : (stationAtStrobe (takeStrobe p s)).chs = Chs.cleared := by
    simp [stationAtStrobe, hi, leaveIsolated, clearScheduler]
  have nothing : (closeFrame (stationAtStrobe (takeStrobe p s))).chs = Chs.cleared := by simpa using cleared
  rw [strobeTaken_chs p inputs (by simp [hi]), changedAtStrobe, changesAtStrobe_of_cleared _ nothing, nothing]

/-- Outside Isolated the strobe's changes find the Change Scheduler as it was, and the station as ready to take them. -/
theorem closedAtStrobe_changes (hi : s.stc.station ≠ .isolated) :
    (closeFrame (stationAtStrobe (takeStrobe p s))).chs = s.chs ∧
    takesChanges (closeFrame (stationAtStrobe (takeStrobe p s))) = takesChanges s := by
  obtain ⟨hchs, htakes⟩ := stationAtStrobe_holds_changes (s := takeStrobe p s) (by simpa using hi)
  rw [takesChanges_congr (s := stationAtStrobe (takeStrobe p s)) (by simp), htakes, takesChanges_congr (s := s) (by simp)]
  simp [hchs]

/-- In Booting and Silent a strobe flushes the queue of a Locate and holds all else (R168, R169). -/
theorem strobeTaken_chs_idle (h : s.stc.station = .booting ∨ s.stc.station = .silent) :
    (strobeTaken p inputs s).chs = { s.chs with queue := queueAtStrobe p s } := by
  rcases h with hb | hs
  · have flushed := flushAtStrobe_chs p (s := s) (r := takeStrobe p s) (by simp)
    rw [strobeTaken_booting p inputs hb, strobeInBooting]
    simpa using flushed
  · obtain ⟨hchs, htakes⟩ := closedAtStrobe_changes p (s := s) (by simp [hs])
    rw [strobeTaken_chs p inputs (by simp [hs])]
    exact changesAtStrobe_chs_idle p hchs (htakes.trans (by simp [takesChanges, hs]))

/-- In Listening, Joining and Contributing a strobe removes the ripe entries and the Due List (R166, R167). -/
theorem strobeTaken_chs_takes (ht : takesChanges s = true) : (strobeTaken p inputs s).chs = { s.chs with
    queue := (queueAtStrobe p s).dropWhile fun e => decide (e.target.toNat ≤ p.toNat), due := [] } := by
  obtain ⟨hchs, htakes⟩ := closedAtStrobe_changes p (s := s) (fun hi => by simp [takesChanges, hi] at ht)
  rw [strobeTaken_chs p inputs (fun hb => by simp [takesChanges, hb] at ht)]
  exact changesAtStrobe_chs_takes hchs (by simp [takeStrobe, strobeRfr]) (htakes.trans ht)

/-- The settings a strobe leaves are those its changes make of the settings before it (R166). -/
theorem changedAtStrobe_takes (ht : takesChanges s = true) :
    SameDesk ((((queueAtStrobe p s).takeWhile fun e => decide (e.target.toNat ≤ p.toNat)).map (fun e => e.change) ++
      s.chs.due).foldl applyChange s) (changedAtStrobe p s) := by
  by_cases enters : s.stc.station = .joining ∧ s.stc.joiningComplete = true
  · obtain ⟨joining, complete⟩ := enters
    exact changedAtStrobe_enters p joining complete
  · have stays : StaysAtStrobe s := by
      unfold StaysAtStrobe
      revert ht enters
      cases hst : s.stc.station <;> simp [takesChanges, hst]
    have silent : s.stc.station ≠ .silent := fun hs => by simp [takesChanges, hs] at ht
    simpa only [if_neg silent, queueAtStrobe] using stays.changedAtStrobe p

end

/-- Settles O31: the Change Scheduler and the settings after a strobe, by whether the station takes changes. -/
theorem strobeAppliesDueChanges : Obligations.StrobeAppliesDueChanges := by
  intro p inputs s hpin queue
  refine ⟨fun ht => ⟨_, exec_strobe p inputs s hpin, strobeTaken_chs_takes p inputs ht, ?settings⟩,
    fun h => ⟨_, exec_strobe p inputs s hpin, strobeTaken_chs_idle p inputs h, ?kept⟩⟩
  case settings =>
    obtain ⟨hsst, hgsu, -⟩ := strobeTaken_settings p inputs (s := s) (fun hb => by simp [takesChanges, hb] at ht)
    obtain ⟨dsst, dgsu, -⟩ := changedAtStrobe_takes p ht
    exact ⟨hsst.trans dsst, congrArg Gsu.groups (hgsu.trans dgsu)⟩
  case kept => exact strobeTaken_keepsSettings p inputs (by rcases h with h | h <;> simp [takesChanges, h])

end Sys2Proof.Machine
end

section
/-! The Change Scheduler's bounds through every step: the order and the capacity of the queue, the bounds of the collections
(R155, R157, R158, R163, R164). -/

namespace Sys2Proof.Machine

/-! ### The queue and a collection within their bounds -/

/-- The queue is in order of target and within its capacity (R163). -/
def QueueOk (q : List QueueEntry) : Prop :=
  q.Pairwise (fun e f => e.target.toNat ≤ f.target.toNat) ∧ q.length ≤ 64

/-- A collection is within its bounds (R155, R158). -/
def CollectionOk (b : BindCollection) : Prop :=
  b.remaining ≤ 4 ∧ b.held.length ≤ 16 ∧ (b.stamp = .undetermined → b.held = []) ∧
    (b.remaining = 0 → b = BindCollection.cleared)

theorem schedulerOk_iff (s : State) : SchedulerOk s ↔ QueueOk s.chs.queue ∧ ∀ n, CollectionOk (collectionAt s n) :=
  and_assoc.symm

theorem queueOk_nil : QueueOk [] := ⟨List.Pairwise.nil, Nat.zero_le _⟩

theorem QueueOk.sublist {q r : List QueueEntry} (i : QueueOk q) (h : r.Sublist q) : QueueOk r := by
  obtain ⟨ordered, short⟩ := i
  exact ⟨ordered.sublist h, h.length_le.trans short⟩

/-- Behind the entries at or below a target an ordered queue has entries above it alone. -/
theorem above_of_mem_dropWhile {q : List QueueEntry} (ordered : q.Pairwise fun e f => e.target.toNat ≤ f.target.toNat)
    (p : Position) {f : QueueEntry} (hf : f ∈ q.dropWhile fun e => decide (e.target.toNat ≤ p.toNat)) :
    p.toNat < f.target.toNat := by
  have ordered' := ordered.sublist (List.dropWhile_sublist fun e : QueueEntry => decide (e.target.toNat ≤ p.toNat))
  have first := List.head?_dropWhile_not (fun e : QueueEntry => decide (e.target.toNat ≤ p.toNat)) q
  generalize q.dropWhile (fun e => decide (e.target.toNat ≤ p.toNat)) = back at hf ordered' first
  cases back with
  | nil => exact absurd hf List.not_mem_nil
  | cons e es =>
    have above : p.toNat < e.target.toNat := by simpa using first
    rcases List.mem_cons.mp hf with rfl | later
    · exact above
    · exact above.trans_le (List.rel_of_pairwise_cons ordered' later)

/-- A run inserted behind the entries at or below its target keeps the order (R164). -/
theorem QueueOk.insert {q : List QueueEntry} (i : QueueOk q) (p : Position) {cs : List LaneChange}
    (fits : q.length + cs.length ≤ 64) :
    QueueOk ((q.takeWhile fun e => decide (e.target.toNat ≤ p.toNat)) ++
      cs.map (fun c => { target := p, change := c }) ++ q.dropWhile fun e => decide (e.target.toNat ≤ p.toNat)) := by
  obtain ⟨ordered, -⟩ := i
  have parts := List.takeWhile_append_dropWhile (p := fun e : QueueEntry => decide (e.target.toNat ≤ p.toNat)) (l := q)
  have below : ∀ e ∈ q.takeWhile fun e => decide (e.target.toNat ≤ p.toNat), e.target.toNat ≤ p.toNat :=
    fun e he => by simpa using List.mem_takeWhile_imp he
  have above := fun f hf => above_of_mem_dropWhile ordered p (f := f) hf
  have lengths := congrArg List.length parts
  rw [← parts] at ordered
  obtain ⟨front, back, across⟩ := List.pairwise_append.mp ordered
  refine ⟨List.pairwise_append.mpr ⟨List.pairwise_append.mpr ⟨front, ?run, ?upTo⟩, back, ?after⟩, ?short⟩
  case run => exact List.pairwise_map.mpr (List.pairwise_of_forall fun _ _ => le_rfl)
  case upTo =>
    intro e he f hf
    obtain ⟨c, -, rfl⟩ := List.mem_map.mp hf
    exact below e he
  case after =>
    intro e he f hf
    rcases List.mem_append.mp he with he | he
    · exact across e he f hf
    · obtain ⟨c, -, rfl⟩ := List.mem_map.mp he
      exact (above f hf).le
  case short =>
    rw [List.length_append] at lengths
    rw [List.length_append, List.length_append, List.length_map]
    omega

theorem collectionOk_cleared : CollectionOk BindCollection.cleared :=
  ⟨Nat.zero_le _, Nat.zero_le _, fun _ => rfl, fun _ => rfl⟩

/-! ### What keeps the bounds -/

section
variable {s t : State}

/-- The bounds read the Change Scheduler alone. -/
theorem SchedulerOk.of_chs (i : SchedulerOk s) (h : t.chs = s.chs) : SchedulerOk t := by
  simpa only [SchedulerOk, collectionAt, h] using i

theorem schedulerOk_of_cleared (h : t.chs = Chs.cleared) : SchedulerOk t :=
  reset_schedulerOk.of_chs h

/-- The queue and the Due List may change, the queue within its bounds. -/
theorem SchedulerOk.of_queue (i : SchedulerOk s) {q : List QueueEntry} (hq : QueueOk q) {due : List LaneChange}
    (h : t.chs = { s.chs with queue := q, due := due }) : SchedulerOk t := by
  obtain ⟨-, collections⟩ := (schedulerOk_iff s).mp i
  refine (schedulerOk_iff t).mpr ⟨by rwa [h], fun n => ?_⟩
  rw [collectionAt, h]
  exact collections n

theorem SchedulerOk.setCollection (i : SchedulerOk s) (lane : LaneIx) {b : BindCollection} (hb : CollectionOk b) :
    SchedulerOk (setCollection s lane b) := by
  obtain ⟨queue, collections⟩ := (schedulerOk_iff s).mp i
  refine (schedulerOk_iff _).mpr ⟨queue, fun n => ?_⟩
  rw [collectionAt_setCollection]
  split
  · exact hb
  · exact collections n

/-! ### Placing and bound sets (R156 to R165) -/

theorem SchedulerOk.placeDue (i : SchedulerOk s) (cs : List LaneChange) : SchedulerOk (placeDue cs s) := by
  obtain ⟨queue, -⟩ := (schedulerOk_iff s).mp i
  exact i.of_queue queue rfl

theorem SchedulerOk.placeChanges (i : SchedulerOk s) (cs : List LaneChange) (stamp : Option Position) :
    SchedulerOk (placeChanges cs stamp s) := by
  have due := i.placeDue cs
  unfold Machine.placeChanges
  split
  · exact i
  · exact due
  · split
    · exact due
    · split
      · next fits =>
        obtain ⟨queue, -⟩ := (schedulerOk_iff s).mp i
        exact i.of_queue (queue.insert _ (of_decide_eq_true fits)) rfl
      · exact due.of_chs (by simp)

theorem SchedulerOk.placeSet (i : SchedulerOk s) (lane : LaneIx) (col : BindCollection) : SchedulerOk (placeSet lane col s) :=
  (i.setCollection lane collectionOk_cleared).placeChanges _ _

/-- A set counts down within its bounds, or is placed. -/
theorem SchedulerOk.countDown (i : SchedulerOk s) (lane : LaneIx) {col : BindCollection} (counting : 1 ≤ col.remaining)
    (few : col.remaining ≤ 4) (room : col.held.length ≤ 16) (fixed : col.stamp ≠ .undetermined) :
    SchedulerOk (countDown lane col s) := by
  by_cases last : col.remaining = 1
  · rw [countDown_last last]
    exact i.placeSet lane col
  · rw [countDown_open (by omega)]
    exact i.setCollection lane
      ⟨(Nat.sub_le _ _).trans few, room, fun h => absurd h fixed, fun h => absurd h (by dsimp only; omega)⟩

theorem SchedulerOk.takeChange (i : SchedulerOk s) (lane : LaneIx) (change : Option Change) (stamp : Option Position) :
    SchedulerOk (takeChange lane change stamp s) := by
  obtain ⟨-, collections⟩ := (schedulerOk_iff s).mp i
  obtain ⟨few, short, -, -⟩ := collections lane
  have fixed := fixStamp_ne_undetermined (collectionAt s lane).stamp stamp
  by_cases counting : 1 ≤ (collectionAt s lane).remaining
  · cases change with
    | none =>
      rw [takeChange_unheld stamp counting]
      exact i.countDown lane (col := stampedCollection lane stamp s) counting few short fixed
    | some change =>
      by_cases room : (collectionAt s lane).held.length < 16
      · rw [takeChange_held stamp counting room]
        refine i.countDown lane (col := grownCollection lane change stamp s) counting few ?_ fixed
        simpa [grownCollection] using room
      · rw [takeChange_overflow stamp counting (Nat.not_lt.mp room)]
        exact (i.placeSet lane _).placeChanges _ _
  · have unbound : (collectionAt s lane).remaining = 0 := by omega
    cases change with
    | none => rwa [takeChange_unbound_none unbound]
    | some change =>
      rw [takeChange_unbound unbound]
      exact i.placeChanges _ _

theorem SchedulerOk.openSet (i : SchedulerOk s) (lane : LaneIx) {n : Nat} (hlow : 1 ≤ n) (hhigh : n ≤ 4) :
    SchedulerOk (openSet lane n s) := by
  obtain ⟨-, collections⟩ := (schedulerOk_iff s).mp i
  obtain ⟨-, short, unfixed, -⟩ := collections lane
  rw [openSet_eq]
  refine i.setCollection lane ?_
  split
  · exact ⟨hhigh, Nat.zero_le _, fun _ => rfl, fun h => absurd h (by dsimp only; omega)⟩
  · exact ⟨hhigh, short, unfixed, fun h => absurd h (by dsimp only; omega)⟩

/-! ### A strobe (R32, R166 to R169) -/

theorem QueueOk.atStrobe (p : Position) (h : QueueOk s.chs.queue) : QueueOk (queueAtStrobe p s) := by
  unfold queueAtStrobe
  split
  · exact h
  · exact queueOk_nil

theorem SchedulerOk.strobeTaken (i : SchedulerOk s) (p : Position) (inputs : Table 48 Sample) :
    SchedulerOk (strobeTaken p inputs s) := by
  obtain ⟨queue, -⟩ := (schedulerOk_iff s).mp i
  have flushed : QueueOk (queueAtStrobe p s) := queue.atStrobe p
  cases hst : s.stc.station with
  | booting => exact i.of_queue flushed (strobeTaken_chs_idle p inputs (.inl hst))
  | silent => exact i.of_queue flushed (strobeTaken_chs_idle p inputs (.inr hst))
  | isolated => exact schedulerOk_of_cleared (strobeTaken_chs_isolated p inputs hst)
  | listening | joining | contributing =>
    exact i.of_queue (flushed.sublist (List.dropWhile_sublist _))
      (strobeTaken_chs_takes p inputs (by simp [takesChanges, hst]))

/-! ### A peer lane's arrival (R17, R160) -/

/-- A lane's leaving Present clears its collection. -/
theorem SchedulerOk.leavePresent (i : SchedulerOk s) (lane : LaneIx) : SchedulerOk (leavePresent lane s) :=
  (i.setCollection lane collectionOk_cleared).of_chs (leavePresent_chs lane s)

theorem SchedulerOk.peerArrival (i : SchedulerOk s) (m : KeptByMessages SchedulerOk) (lane : LaneIx) (straps : BitVec 4)
    (v : Option (Table 54 Word)) : SchedulerOk (peerArrival lane straps v s) := by
  have stored : ∀ r, SchedulerOk (setLane s lane r) := fun r => i.of_chs (by simp)
  refine peerArrival_cases lane straps v s (fun r _ _ => stored r) (fun r ws => ?taken)
    (fun n => i.of_chs (by simp)) (fun r => (stored r).leavePresent lane)
    (fun r => ((stored r).leavePresent lane).of_chs (by simp [losePeer]))
  case taken => exact m.takeSlots _ _ _ _ _ ((stored r).of_chs (by simp))

end

/-! ### Every step -/

theorem schedulerOk_keptByMessages : KeptByMessages SchedulerOk where
  fault _ i := i.of_chs (by simp)
  change lane c stamp _ _ i := i.takeChange lane c stamp
  bind lane _ _ hlow hhigh _ i := i.openSet lane hlow hhigh
  query _ _ i := i.of_chs (by simp)
  watch _ _ _ _ _ i := i.of_chs (by simp)
  unwatch _ _ i := i.of_chs (by simp)
  rearm _ _ i := i.of_chs (by simp)
  clear _ _ i := i.of_chs (by simp)
  announce _ i := i.of_chs (by simp)
  reset straps s _ _ := by
    obtain ⟨-, hchs, -⟩ := stationResetTaken_blocks straps s
    exact schedulerOk_of_cleared hchs
  reassembly _ _ _ i := i.of_chs (by simp)

theorem schedulerOk_keptBySteps : KeptBySteps SchedulerOk where
  toKeptByMessages := schedulerOk_keptByMessages
  queue _ _ i := i.of_chs rfl
  powerOn _ _ _ := schedulerOk_of_cleared rfl
  pinAsserted _ i := i.of_chs (by simp)
  pinReset _ _ _ := schedulerOk_of_cleared rfl
  boot _ _ _ i := i.of_chs (by simp)
  strobe p inputs _ i := i.strobeTaken p inputs
  loss _ i := i.of_chs (by simp)
  peer lane straps v _ _ i := i.peerArrival schedulerOk_keptByMessages lane straps v
  watched _ _ _ i := i.of_chs (by simp)
  clean _ i := i.of_chs (by simp)
  mismatch _ _ i := i.of_chs (by simp)
  decide _ _ i := i.of_chs (by simp)
  lock _ _ _ i := i.of_chs (by simp)
  inputFault _ i := i.of_chs (by simp)
  window _ i := i.of_chs (by simp)
  ramp r _ i := i.of_chs (by unfold applyRamp; split <;> split <;> simp)
  close lane s i := i.placeSet lane (collectionAt s lane)

/-- Settles O30: the bounds are kept by each operation a step can be. -/
theorem stepKeepsSchedulerOk : Obligations.StepKeepsSchedulerOk :=
  fun s t i e => schedulerOk_keptBySteps.step s t i e

end Sys2Proof.Machine
end

section
/-! The Meter Watch Table through every step: what a Watch, an Unwatch, a window end, a frame's samples and a slot make of it
(R171 to R175). -/

namespace Sys2Proof.Machine

/-! ### The entry that holds a strip (R172) -/

theorem nextEntry_eq (e : EntryIx) : nextEntry e = e + 1 := by
  revert e
  decide

section
variable {m : Mtu} {strip : BitVec 16}

theorem holdsStrip_iff (strip : BitVec 16) (o : Option WatchEntry) :
    holdsStrip strip o = true ↔ ∃ w, o = some w ∧ w.strip = strip := by
  cases o <;> simp [holdsStrip]

theorem entryOf_eq_none_iff : entryOf m strip = none ↔ ∀ e w, m.entries.get e = some w → w.strip ≠ strip := by
  simp [entryOf, holdsStrip_iff]

theorem entryOf_holds {e : EntryIx} (h : entryOf m strip = some e) : ∃ w, m.entries.get e = some w ∧ w.strip = strip :=
  (holdsStrip_iff strip _).mp (List.find?_some (p := fun f => holdsStrip strip (m.entries.get f)) h)

/-- The one entry that holds a strip is the one that is found. -/
theorem entryOf_eq_some {e : EntryIx} {w : WatchEntry} (he : m.entries.get e = some w) (hw : w.strip = strip)
    (alone : ∀ f x, m.entries.get f = some x → x.strip = strip → f = e) : entryOf m strip = some e := by
  cases found : entryOf m strip with
  | none => exact absurd hw (entryOf_eq_none_iff.mp found e w he)
  | some f =>
    obtain ⟨x, hf, hx⟩ := entryOf_holds found
    rw [alone f x hf hx]

end

/-! ### A Watch and an Unwatch (R172, R173) -/

/-- Class 3 without the answer that waits for an entry about to be replaced (R172). -/
def answersWithout (o : Option WatchEntry) (answers : List MeterAnswer) : List MeterAnswer :=
  match o with
  | some w => if w.waiting then answers.filter fun a => decide (a.strip ≠ w.strip) else answers
  | none => answers

theorem dropAnswerOf_eq (o : Option WatchEntry) (s : State) :
    dropAnswerOf o s = s.setMse { s.mse with meterAnswers := answersWithout o s.mse.meterAnswers } := by
  cases o with
  | none => rfl
  | some w =>
    rw [dropAnswerOf, answersWithout]
    split <;> rfl

/-- Of class 3 the replaced entry's strip alone loses its answer. -/
theorem mem_answersWithout {o : Option WatchEntry} {answers : List MeterAnswer} {a : MeterAnswer} (h : a ∈ answers)
    (other : ∀ w, o = some w → a.strip ≠ w.strip) : a ∈ answersWithout o answers := by
  cases o with
  | none => exact h
  | some w =>
    rw [answersWithout]
    split
    · exact List.mem_filter.mpr ⟨h, decide_eq_true (other w rfl)⟩
    · exact h

section
variable {strip : BitVec 16} {s : State}

theorem watchStrip_hit {e : EntryIx} (c : Chan) (h : entryOf s.mtu strip = some e) : watchStrip strip c s =
    s.setMtu { s.mtu with pointer := if s.mtu.pointer = e then e + 1 else s.mtu.pointer } := by
  rw [watchStrip, h, ← nextEntry_eq]
  dsimp only
  split <;> rfl

theorem watchStrip_miss (c : Chan) (h : entryOf s.mtu strip = none) : watchStrip strip c s =
    (s.setMse { s.mse with meterAnswers := answersWithout (s.mtu.entries.get s.mtu.pointer) s.mse.meterAnswers }).setMtu
      { s.mtu with
        entries := s.mtu.entries.put s.mtu.pointer (some { strip := strip, channel := c, peak := 0, waiting := false })
        pointer := s.mtu.pointer + 1 } := by
  rw [watchStrip, h, ← nextEntry_eq]
  dsimp only
  rw [dropAnswerOf_eq, State.setMse_mtu]

theorem unwatchStrip_hit {e : EntryIx} (h : entryOf s.mtu strip = some e) :
    unwatchStrip strip s = s.setMtu { s.mtu with entries := s.mtu.entries.put e none } := by
  rw [unwatchStrip, h]

theorem unwatchStrip_miss (h : entryOf s.mtu strip = none) : unwatchStrip strip s = s := by
  rw [unwatchStrip, h]

end

/-- Settles O56: the strip's channel is acted on, and the one entry that holds the strip is found, or none is. -/
theorem watchTableKeepsHitsReplacesAtPointer : Obligations.WatchTableKeepsHitsReplacesAtPointer := by
  intro strip c s hpin ht hc
  have watch : takeWatch strip s = watchStrip strip c s := onStrip_acted _ ht hc
  have unwatch : takeUnwatch strip s = unwatchStrip strip s := onStrip_acted _ ht hc
  refine ⟨fun e w he hw alone => ?hit, fun unheld => ?miss⟩
  case hit =>
    have found := entryOf_eq_some he hw alone
    exact ⟨next_unlessPinned hpin (watch.trans (watchStrip_hit c found)),
      next_unlessPinned hpin (unwatch.trans (unwatchStrip_hit found))⟩
  case miss =>
    have found := entryOf_eq_none_iff.mpr unheld
    refine ⟨next_unlessPinned hpin (unwatch.trans (unwatchStrip_miss found)),
      next_unlessPinned hpin (watch.trans ((watchStrip_miss c found).trans ?_))⟩
    cases s.mtu.entries.get s.mtu.pointer <;> rfl

/-! ### The parts of a sound table (R171) -/

/-- The Occupied entries stand where the strip base puts them, one for each strip, and none in Booting. -/
def WatchesPlaced (s : State) : Prop :=
  (∀ e w, s.mtu.entries.get e = some w → w.strip.toNat = s.stc.stripBase + w.channel.val) ∧
  StripsDistinct s.mtu.entries ∧ (s.stc.station = .booting → ∀ e, s.mtu.entries.get e = none)

/-- Every set mark stands for an answer that waits. -/
def MarksAnswered (s : State) : Prop :=
  ∀ e w, s.mtu.entries.get e = some w → w.waiting = true → ∃ a ∈ s.mse.meterAnswers, a.strip = w.strip

theorem metersOk_iff (s : State) : MetersOk s ↔ WatchesPlaced s ∧ MarksAnswered s ∧ s.mtu.windowCount < 2048 :=
  ⟨fun ⟨channel, distinct, marks, booting, count⟩ => ⟨⟨channel, distinct, booting⟩, marks, count⟩,
    fun ⟨⟨channel, distinct, booting⟩, marks, count⟩ => ⟨channel, distinct, marks, booting, count⟩⟩

/-- What an entry watches: all of it but what the windows write. -/
def WatchEntry.watched (w : WatchEntry) : BitVec 16 × Chan :=
  (w.strip, w.channel)

theorem map_watched (o : Option WatchEntry) :
    o.map WatchEntry.watched = (o.map WatchEntry.measured).map fun m => (m.1, m.2.1) := by
  rw [Option.map_map]
  rfl

/-- The entries watch what they watched, of the same strip base, and Booting is not entered. -/
def KeepsWatches (s t : State) : Prop :=
  (∀ e, (t.mtu.entries.get e).map WatchEntry.watched = (s.mtu.entries.get e).map WatchEntry.watched) ∧
  t.stc.stripBase = s.stc.stripBase ∧ (t.stc.station = .booting → s.stc.station = .booting)

section
variable {s t : State}

theorem KeepsWatches.trans {u : State} (h : KeepsWatches s t) (k : KeepsWatches t u) : KeepsWatches s u := by
  obtain ⟨watched, base, booting⟩ := h
  obtain ⟨watched', base', booting'⟩ := k
  exact ⟨fun e => (watched' e).trans (watched e), base'.trans base, booting ∘ booting'⟩

/-- An Occupied entry watches what that entry watched before. -/
theorem KeepsWatches.entry (h : KeepsWatches s t) {e : EntryIx} {w : WatchEntry} (he : t.mtu.entries.get e = some w) :
    ∃ v, s.mtu.entries.get e = some v ∧ v.strip = w.strip ∧ v.channel = w.channel := by
  obtain ⟨watched, -⟩ := h
  have same := watched e
  rw [he] at same
  obtain ⟨v, hv, eq⟩ := Option.map_eq_some_iff.mp same.symm
  exact ⟨v, hv, congrArg Prod.fst eq, congrArg Prod.snd eq⟩

theorem WatchesPlaced.kept (i : WatchesPlaced s) (h : KeepsWatches s t) : WatchesPlaced t := by
  obtain ⟨channel, distinct, free⟩ := i
  have ⟨watched, base, booting⟩ := h
  refine ⟨fun e w he => ?channel, fun e f w x he hf hstrip => ?distinct, fun hb e => ?free⟩
  case channel =>
    obtain ⟨v, hv, hstrip, hchannel⟩ := h.entry he
    rw [← hstrip, ← hchannel, base]
    exact channel e v hv
  case distinct =>
    obtain ⟨v, hv, hv', -⟩ := h.entry he
    obtain ⟨y, hy, hy', -⟩ := h.entry hf
    exact distinct e f v y hv hy (hv'.trans (hstrip.trans hy'.symm))
  case free =>
    have same := watched e
    rw [free (booting hb) e] at same
    exact Option.map_eq_none_iff.mp same

/-- What the soundness of the table reads beside Booting is as it was. -/
theorem MetersOk.of_meters (i : MetersOk s) (h : t.mtu = s.mtu ∧ t.mse.meterAnswers = s.mse.meterAnswers ∧
    t.stc.stripBase = s.stc.stripBase ∧ (t.stc.station = .booting → s.stc.station = .booting)) : MetersOk t := by
  obtain ⟨hmtu, hanswers, hbase, hbooting⟩ := h
  obtain ⟨channel, distinct, marks, free, count⟩ := i
  refine ⟨?_, ?_, ?_, fun hb => ?_, ?_⟩
  · rwa [hmtu, hbase]
  · rwa [hmtu]
  · rwa [hmtu, hanswers]
  · rw [hmtu]
    exact free (hbooting hb)
  · rwa [hmtu]

/-- A table with every entry Free is sound. -/
theorem metersOk_of_free (free : ∀ e, t.mtu.entries.get e = none) (count : t.mtu.windowCount < 2048) : MetersOk t := by
  refine ⟨fun e w h => ?_, fun e f w x h => ?_, fun e w h => ?_, fun _ => free, count⟩
  all_goals simp [free] at h

theorem metersOk_of_cleared (h : t.mtu = Mtu.cleared) : MetersOk t :=
  metersOk_of_free (fun e => by rw [h]; exact Table.get_fill _ _) (by rw [h]; decide)

/-! ### Watches kept (R171 to R173) -/

/-- A strip that no entry holds takes the place of the pointed entry (R172). -/
theorem MetersOk.watchStrip (i : MetersOk s) {strip : BitVec 16} {c : Chan} (hc : strip.toNat = s.stc.stripBase + c.val)
    (ht : takesChanges s = true) : MetersOk (watchStrip strip c s) := by
  cases found : entryOf s.mtu strip with
  | some e =>
    rw [watchStrip_hit c found]
    exact i
  | none =>
    obtain ⟨channel, distinct, marks, -, count⟩ := i
    have unheld := entryOf_eq_none_iff.mp found
    have awake : s.stc.station ≠ .booting := by
      intro hb
      simp [takesChanges, hb] at ht
    rw [watchStrip_miss c found]
    refine ⟨fun e w he => ?channel, fun e f w x he hf hstrip => ?distinct, fun e w he hw => ?marks, fun hb => absurd hb awake,
      count⟩
    all_goals simp only [State.setMtu_mtu, Table.get_put] at he
    case channel =>
      split at he
      · cases he
        exact hc
      · exact channel e w he
    case distinct =>
      simp only [State.setMtu_mtu, Table.get_put] at hf
      split at he <;> split at hf
      · next hep hfp => exact hep.trans hfp.symm
      · cases he
        exact absurd hstrip.symm (unheld f x hf)
      · cases hf
        exact absurd hstrip (unheld e w he)
      · exact distinct e f w x he hf hstrip
    case marks =>
      split at he
      · cases he
        cases hw
      · next other =>
        obtain ⟨a, ha, hstrip⟩ := marks e w he hw
        refine ⟨a, mem_answersWithout ha fun v hv same => ?_, hstrip⟩
        exact other (distinct e _ w v he hv (hstrip.symm.trans same))

theorem MetersOk.unwatchStrip (i : MetersOk s) (strip : BitVec 16) : MetersOk (unwatchStrip strip s) := by
  cases found : entryOf s.mtu strip with
  | none => rwa [unwatchStrip_miss found]
  | some e =>
    rw [unwatchStrip_hit found]
    obtain ⟨channel, distinct, marks, free, count⟩ := i
    have stood : ∀ f x, (s.mtu.entries.put e none).get f = some x → s.mtu.entries.get f = some x := by
      intro f x hf
      rw [Table.get_put] at hf
      split at hf
      · cases hf
      · exact hf
    refine ⟨fun f x hf => channel f x (stood f x hf), fun f g x y hf hg => distinct f g x y (stood f x hf) (stood g y hg),
      fun f x hf => marks f x (stood f x hf), fun hb f => ?_, count⟩
    exact Option.eq_none_iff_forall_ne_some.mpr fun x hx => by simpa [free hb f] using stood f x hx

/-! ### Window ends and samples (R174, R175) -/

/-- Where a strip's answer waits, one waits after a reading has come to class 3. -/
theorem answersAfter_keeps_waiting (a : MeterAnswer) {m : Mse} {strip : BitVec 16}
    (h : ∃ b ∈ m.meterAnswers, b.strip = strip) : ∃ b ∈ answersAfter a m, b.strip = strip := by
  obtain ⟨b, hb, rfl⟩ := h
  unfold answersAfter
  split
  · by_cases same : b.strip = a.strip
    · exact ⟨a, List.mem_map.mpr ⟨b, hb, if_pos same⟩, same.symm⟩
    · exact ⟨b, List.mem_map.mpr ⟨b, hb, if_neg same⟩, rfl⟩
  · split
    · exact ⟨b, List.mem_append_left _ hb, rfl⟩
    · exact ⟨b, hb, rfl⟩

/-- A reading that class 3 takes waits in it. -/
theorem answersAfter_waits {a : MeterAnswer} {m : Mse} (h : meterFits m a.strip = true) :
    ∃ b ∈ answersAfter a m, b.strip = a.strip := by
  by_cases waits : ∃ b ∈ m.meterAnswers, b.strip = a.strip
  · exact answersAfter_keeps_waiting a waits
  · have room := ((meterFits_iff m a.strip).mp h).resolve_left waits
    rw [answersAfter_joins waits room]
    exact ⟨a, List.mem_append_right _ (List.mem_singleton_self a), rfl⟩

/-- An entry's reading answers the mark it sets, and leaves the other marks their answers. -/
theorem MarksAnswered.windowEntry (i : MarksAnswered s) (e : EntryIx) : MarksAnswered (windowEntry s e) := by
  cases he : s.mtu.entries.get e with
  | none => rwa [windowEntry_free he]
  | some w =>
    rw [windowEntry_occupied he]
    intro f x hf hx
    change (s.mtu.entries.put e _).get f = some x at hf
    change ∃ a ∈ answersAfter (meterAnswerOf w) s.mse, a.strip = x.strip
    rw [Table.get_put] at hf
    split at hf
    · cases hf
      rcases (Bool.or_eq_true _ _).mp hx with marked | fits
      · exact answersAfter_keeps_waiting _ (i e w he marked)
      · exact answersAfter_waits (a := meterAnswerOf w) fits
    · exact answersAfter_keeps_waiting _ (i f x hf hx)

theorem MarksAnswered.windowTaken (i : MarksAnswered s) (n : Nat) : MarksAnswered (windowTaken s n) :=
  List.foldlRecOn _ _ (motive := MarksAnswered) i fun _ marks e _ => marks.windowEntry e

theorem MarksAnswered.endWindow (i : MarksAnswered s) : MarksAnswered (endWindow s) := by
  have entries := endWindow_entries s
  have answers := endWindow_answers s
  unfold MarksAnswered
  rw [entries, answers]
  exact i.windowTaken 8

theorem keepsWatches_endWindow (s : State) : KeepsWatches s (endWindow s) := by
  refine ⟨fun e => ?_, by simp, by simp⟩
  rw [endWindow_entry, Option.map_map]
  rfl

theorem MetersOk.endWindow (i : MetersOk s) : MetersOk (endWindow s) := by
  obtain ⟨placed, marks, -⟩ := (metersOk_iff s).mp i
  obtain ⟨count, -⟩ := endWindow_frame s
  exact (metersOk_iff _).mpr ⟨placed.kept (keepsWatches_endWindow s), marks.endWindow, by omega⟩

theorem MarksAnswered.sampled (i : MarksAnswered s) : MarksAnswered (sampled s) := by
  intro e w he hw
  rw [sampled_entry] at he
  obtain ⟨v, hv, rfl⟩ := Option.map_eq_some_iff.mp he
  exact i e v hv hw

theorem keepsWatches_meterFrame (s : State) : KeepsWatches s (meterFrame s) := by
  refine ⟨fun e => ?_, by simp, by simp⟩
  rw [map_watched, meterFrame_measured, Option.map_map]
  rfl

theorem MetersOk.meterFrame (i : MetersOk s) : MetersOk (meterFrame s) := by
  obtain ⟨placed, marks, count⟩ := (metersOk_iff s).mp i
  obtain ⟨-, counted⟩ := meterFrame_counts s
  refine (metersOk_iff _).mpr ⟨placed.kept (keepsWatches_meterFrame s), ?marks, ?count⟩
  case marks =>
    rw [meterFrame_eq]
    split
    · exact marks.sampled.endWindow
    · exact marks.sampled
  case count =>
    rw [counted]
    split <;> omega

/-! ### The slots (R153, R175) -/

/-- The head of an answer clears its entry's mark: every other mark's answer is among those behind it. -/
theorem MarksAnswered.clearHead (i : MarksAnswered s) {a : MeterAnswer} {as : List MeterAnswer}
    (h : s.mse.meterAnswers = a :: as) :
    MarksAnswered (clearWaitingMark a.strip (s.setMse { s.mse with meterAnswers := as })) := by
  intro e w he hw
  change (Table.make _).get e = some w at he
  rw [Table.get_make] at he
  obtain ⟨v, hv, rfl⟩ := Option.map_eq_some_iff.mp he
  change ∃ b ∈ as, _
  split at hw
  · cases hw
  · next other =>
    rw [if_neg other]
    obtain ⟨b, hb, hstrip⟩ := i e v hv hw
    rw [h] at hb
    rcases List.mem_cons.mp hb with rfl | behind
    · exact absurd hstrip.symm other
    · exact ⟨b, behind, hstrip⟩

theorem MarksAnswered.fillSlot (i : MarksAnswered s) : MarksAnswered (fillSlot s).2 :=
  fillSlot_cases (P := fun out => MarksAnswered out.2) s (fun _ _ _ _ => i) fun _ =>
    beginNext_cases (P := fun out => MarksAnswered out.2) s (fun _ => i) (fun _ _ _ => i) (fun _ _ _ => i)
      (fun _ _ h => i.clearHead h) i

theorem MetersOk.fillSlot (i : MetersOk s) : MetersOk (fillSlot s).2 := by
  obtain ⟨placed, marks, count⟩ := (metersOk_iff s).mp i
  obtain ⟨-, counted, measured⟩ := marksAlone_fillSlot s
  refine (metersOk_iff _).mpr ⟨placed.kept ⟨fun e => ?watched, by simp, by simp⟩, marks.fillSlot, by omega⟩
  case watched => rw [map_watched, measured, ← map_watched]

/-! ### A strobe (R27, R32, R154, R174) -/

/-- The end of Isolated empties class 3 and clears every mark (R32, R154, R171). -/
theorem MetersOk.leaveIsolated (i : MetersOk s) : MetersOk (leaveIsolated s) := by
  obtain ⟨placed, -, count⟩ := (metersOk_iff s).mp i
  have entry : ∀ e, (Machine.leaveIsolated s).mtu.entries.get e =
      (s.mtu.entries.get e).map fun w => { w with waiting := false } := by
    intro e
    have meters : (Machine.leaveIsolated s).mtu = (clearWaitingMarks s).mtu := by
      simp [leaveIsolated_eq, isolationCleared_blocks]
    rw [meters]
    exact Table.get_make _ e
  have counted : (Machine.leaveIsolated s).mtu.windowCount = s.mtu.windowCount := by
    simp [leaveIsolated_eq, isolationCleared_blocks, clearWaitingMarks]
  have station : (Machine.leaveIsolated s).stc.station = .listening := by simp [leaveIsolated_eq, isolationCleared_blocks]
  refine (metersOk_iff _).mpr
    ⟨placed.kept ⟨fun e => ?watched, by simp, by simp [station]⟩, fun e w he hw => ?marks, by omega⟩
  case watched =>
    rw [entry, Option.map_map]
    rfl
  case marks =>
    rw [entry] at he
    obtain ⟨v, -, rfl⟩ := Option.map_eq_some_iff.mp he
    cases hw

/-- At the entry to Contributing the peaks and the count are 0, and the watches and their marks stand (R174). -/
theorem MetersOk.startMetering (i : MetersOk s) : MetersOk (startMetering s) := by
  obtain ⟨placed, marks, -⟩ := (metersOk_iff s).mp i
  have entry : ∀ e, (Machine.startMetering s).mtu.entries.get e =
      (s.mtu.entries.get e).map fun w => { w with peak := 0 } := fun e => Table.get_make _ e
  refine (metersOk_iff _).mpr ⟨placed.kept ⟨fun e => ?watched, rfl, id⟩, fun e w he hw => ?marks, Nat.zero_lt_succ _⟩
  case watched =>
    rw [entry, Option.map_map]
    rfl
  case marks =>
    rw [entry] at he
    obtain ⟨v, hv, rfl⟩ := Option.map_eq_some_iff.mp he
    exact marks e v hv hw

theorem MetersOk.stationAtStrobe (i : MetersOk s) : MetersOk (stationAtStrobe s) := by
  unfold Machine.stationAtStrobe
  split
  · exact i.leaveIsolated.of_meters (by simp)
  · exact i.of_meters (by simp)
  · split
    · refine MetersOk.startMetering ?_
      exact i.of_meters (by simp)
    · exact i
  all_goals exact i

/-- A Contributing frame takes the meters and fills its two slots; no other frame touches the table. -/
theorem MetersOk.openByStation (i : MetersOk s) (before : State) : MetersOk (openByStation before s) := by
  by_cases h : s.stc.station = .contributing
  · have entered : MetersOk (ownWordsEnter s) := i.of_meters (by simp)
    exact entered.meterFrame.fillSlot.fillSlot.of_meters (by simp [Machine.openByStation, h, openContributing])
  · unfold Machine.openByStation
    dsimp only
    split
    case h_2 hc => exact absurd hc h
    all_goals exact i.of_meters (by simp)

theorem MetersOk.strobeTaken (i : MetersOk s) (p : Position) (inputs : Table 48 Sample) :
    MetersOk (strobeTaken p inputs s) := by
  have taken : MetersOk (takeStrobe p s) := i.of_meters (by simp)
  by_cases hb : s.stc.station = .booting
  · rw [strobeTaken_booting p inputs hb]
    exact taken.of_meters (by simp)
  · rw [strobeTaken_eq p inputs s hb]
    refine MetersOk.openByStation ?_ s
    exact taken.stationAtStrobe.of_meters (by simp [formedAtStrobe])

/-! ### The station and the lanes (R13 to R18, R25, R30, R31, R136) -/

theorem MetersOk.enterSilent (i : MetersOk s) (cause : StopCause) : MetersOk (enterSilent cause s) :=
  i.of_meters (by simp [Machine.enterSilent, stopIn])

theorem MetersOk.decideListening (i : MetersOk s) : MetersOk (decideListening s) := by
  by_cases ha : (laneAt s s.stc.nodeId).presence = .absent
  · rw [decideListening_absent ha]
    exact i.of_meters (by simp [enterJoining])
  · rw [decideListening_heard ha]
    exact i.enterSilent _

theorem MetersOk.watchedArrival (i : MetersOk s) (v : Option (Table 54 Word)) : MetersOk (watchedArrival v s) := by
  have stored : MetersOk (setLane s s.stc.nodeId (presenceStep (laneAt s s.stc.nodeId) (arrivalKind v)).1) :=
    i.of_meters (by simp)
  unfold Machine.watchedArrival
  dsimp only
  split
  · exact stored.decideListening
  · exact stored

theorem MetersOk.mismatchReadback (i : MetersOk s) : MetersOk (mismatchReadback s) := by
  have counted : MetersOk (mismatchCounted s) := i.of_meters (by simp [mismatchCounted])
  rw [mismatchReadback_eq]
  split
  · exact counted.enterSilent _
  · exact counted

theorem MetersOk.lossTaken (i : MetersOk s) : MetersOk (lossTaken s) := by
  have blocks : MetersOk (lossAtBlocks s) := i.of_meters (by simp)
  unfold Machine.lossTaken
  split
  · exact blocks.of_meters (by simp [stopIn])
  · exact blocks

theorem MetersOk.peerArrival (i : MetersOk s) (m : KeptByMessages MetersOk) (lane : LaneIx) (straps : BitVec 4)
    (v : Option (Table 54 Word)) : MetersOk (peerArrival lane straps v s) := by
  have left : ∀ r, MetersOk (leavePresent lane (setLane s lane r)) := fun r => i.of_meters (by simp)
  refine peerArrival_cases lane straps v s (fun r _ _ => i.of_meters (by simp)) (fun r ws => ?taken)
    (fun n => i.of_meters (by simp)) left (fun r => (left r).of_meters (by simp [losePeer]))
  case taken => exact m.takeSlots _ _ _ _ _ (i.of_meters (by simp))

end

/-! ### Every step -/

theorem metersOk_keptByMessages : KeptByMessages MetersOk where
  fault _ i := i.of_meters (by simp)
  change _ _ _ _ _ i := i.of_meters (by simp)
  bind _ _ _ _ _ _ i := i.of_meters (by simp)
  query _ _ i := i.of_meters (by simp)
  watch strip c s hc ht i := by
    rw [stripChannel, Option.dite_none_right_eq_some] at hc
    obtain ⟨inRange, named⟩ := hc
    cases named
    exact i.watchStrip (by dsimp only; omega) ht
  unwatch strip _ i := i.unwatchStrip strip
  rearm _ _ i := i.of_meters (by simp)
  clear _ _ i := i.of_meters (by simp)
  announce _ i := i.of_meters (by simp)
  reset straps s _ _ := by
    obtain ⟨-, -, hmtu, -⟩ := stationResetTaken_blocks straps s
    exact metersOk_of_cleared hmtu
  reassembly _ _ _ i := i.of_meters (by simp)

theorem metersOk_keptBySteps : KeptBySteps MetersOk where
  toKeptByMessages := metersOk_keptByMessages
  queue _ _ i := i.of_meters (by simp)
  powerOn _ _ _ := metersOk_of_cleared rfl
  pinAsserted _ i := i.of_meters (by simp)
  pinReset _ _ _ := metersOk_of_cleared rfl
  boot b s hb i := by
    obtain ⟨-, -, -, free, count⟩ := i
    have meters : (bootReadEnds b s).mtu = s.mtu := by simp
    exact metersOk_of_free (by rw [meters]; exact free hb) (by rwa [meters])
  strobe p inputs _ i := i.strobeTaken p inputs
  loss _ i := i.lossTaken
  peer lane straps v _ _ i := i.peerArrival metersOk_keptByMessages lane straps v
  watched v _ _ i := i.watchedArrival v
  clean _ i := i.of_meters (by simp)
  mismatch _ _ i := i.mismatchReadback
  decide _ _ i := i.decideListening
  lock _ _ _ i := i.of_meters (by simp)
  inputFault _ i := i.of_meters (by simp)
  window _ i := i.endWindow
  ramp r _ i := i.of_meters (by unfold applyRamp; split <;> split <;> simp)
  close _ _ i := i.of_meters (by simp)

/-- Settles O59: the soundness of the table is kept by each operation a step can be. -/
theorem stepKeepsMetersOk : Obligations.StepKeepsMetersOk :=
  fun s t i e => metersOk_keptBySteps.step s t i e

end Sys2Proof.Machine
end

section
/-! The conversion of a window peak to steps (R60, R176). -/

namespace Sys2Proof.Machine

/-! ### The index of a base value (R176) -/

/-- Of the elements that pass a test the last one gives the fold its value. -/
theorem foldl_last {α β : Type} (p : α → Prop) [DecidablePred p] (f : α → β) (front : List α) {back : List α} {x : α} (b : β)
    (hx : p x) (hback : ∀ y ∈ back, ¬ p y) :
    (front ++ x :: back).foldl (fun acc y => if p y then f y else acc) b = f x := by
  rw [List.foldl_append, List.foldl_cons, if_pos hx]
  exact List.foldlRecOn back _ (motive := (· = f x)) rfl fun acc same y hy => by rw [if_neg (hback y hy), same]

theorem finRange_split (i : Fin 24) :
    List.finRange 24 = (List.finRange 24).take i.val ++ i :: (List.finRange 24).drop (i.val + 1) := by
  revert i
  decide

/-- The index is the largest remainder whose base value does not exceed m. -/
theorem baseIndex_eq {m : Nat} {i : Fin 24} (hi : Config.gainBase.get i ≤ m)
    (largest : ∀ r, Config.gainBase.get r ≤ m → r ≤ i) : baseIndex m = i.val := by
  rw [baseIndex, finRange_split i]
  refine foldl_last (fun r => Config.gainBase.get r ≤ m) Fin.val _ 0 hi fun r hr base => ?_
  obtain ⟨k, hk, rfl⟩ := List.mem_drop_iff_getElem.mp hr
  have upTo : i.val + 1 + k ≤ i.val := by simpa [Fin.le_def] using largest _ base
  omega

/-- From the first base value upward such a remainder exists. -/
theorem exists_largest_base {m : Nat} (h : Config.gainBase.get 0 ≤ m) :
    ∃ i : Fin 24, Config.gainBase.get i ≤ m ∧ ∀ r, Config.gainBase.get r ≤ m → r ≤ i := by
  obtain ⟨i, hi, largest⟩ :=
    Finset.exists_max_image {r : Fin 24 | Config.gainBase.get r ≤ m} id ⟨0, Finset.mem_filter_univ _ |>.mpr h⟩
  exact ⟨i, (Finset.mem_filter_univ i).mp hi, fun r hr => largest r ((Finset.mem_filter_univ r).mpr hr)⟩

/-! ### The steps of a peak (R176) -/

/-- A peak scaled to its octave is no less than the first base value. -/
theorem octave_scaled {p e : Nat} (h : 2 ^ e ≤ p) : Config.gainBase.get 0 ≤ p * 2 ^ 16 / 2 ^ e := by
  change 65536 ≤ _
  rw [Nat.le_div_iff_mul_le (by positivity), Nat.mul_comm]
  exact Nat.mul_le_mul_right _ h

/-- A nonzero peak has a leading one bit and an index within its octave. -/
theorem exists_peak_octave {p : Nat} (h : 1 ≤ p) : ∃ (e : Nat) (i : Fin 24), 2 ^ e ≤ p ∧ p < 2 ^ (e + 1) ∧
    Config.gainBase.get i ≤ p * 2 ^ 16 / 2 ^ e ∧ ∀ r : Fin 24, Config.gainBase.get r ≤ p * 2 ^ 16 / 2 ^ e → r ≤ i := by
  obtain ⟨low, high⟩ := (Nat.log2_eq_iff (by omega : p ≠ 0)).mp rfl
  obtain ⟨i, base, largest⟩ := exists_largest_base (octave_scaled low)
  exact ⟨p.log2, i, low, high, base, largest⟩

theorem peakSteps_eq {p e : Nat} {i : Fin 24} (low : 2 ^ e ≤ p) (high : p < 2 ^ (e + 1))
    (base : Config.gainBase.get i ≤ p * 2 ^ 16 / 2 ^ e)
    (largest : ∀ r : Fin 24, Config.gainBase.get r ≤ p * 2 ^ 16 / 2 ^ e → r ≤ i) :
    peakSteps p = 24 * ((e : Int) - 23) + (i.val : Int) := by
  have nonzero : p ≠ 0 := by
    have := Nat.two_pow_pos e
    omega
  have octave : p.log2 = e := (Nat.log2_eq_iff nonzero).mpr ⟨low, high⟩
  rw [peakSteps, if_neg nonzero]
  dsimp only
  rw [octave, baseIndex_eq base largest]

/-- The top octave holds 2^27 alone, whose index is 0; below it the steps end at 95. -/
theorem peakSteps_le {p : Nat} (h : p ≤ 2 ^ 27) : peakSteps p ≤ 96 := by
  by_cases nonzero : p = 0
  · rw [nonzero]
    decide
  · obtain ⟨e, i, low, high, base, largest⟩ := exists_peak_octave (Nat.one_le_iff_ne_zero.mpr nonzero)
    rw [peakSteps_eq low high base largest]
    have octave : e ≤ 27 := (Nat.pow_le_pow_iff_right one_lt_two).mp (low.trans h)
    rcases octave.lt_or_eq with below | rfl
    · omega
    · obtain rfl : p = 2 ^ 27 := le_antisymm h low
      have first : ∀ i : Fin 24, Config.gainBase.get i ≤ 2 ^ 27 * 2 ^ 16 / 2 ^ 27 → i = 0 := by decide
      simp [first i base]

/-- Settles O58: each nonzero peak has its octave and its index, which give its steps. -/
theorem peakStepsAreR176 : Obligations.PeakStepsAreR176 :=
  ⟨rfl, fun _ _ _ low high base largest => peakSteps_eq low high base largest, fun _ => exists_peak_octave,
    fun _ => peakSteps_le, fun _ => decide_eq_true_iff⟩

end Sys2Proof.Machine
end
